-- ==== Sys2Proof/Word.lean ====
section
/-! DEFINITION. The word types of IRCAP-NEC (spec/00_scope.md R12, R16; spec/30_encoding.md R91, R102). -/

namespace Sys2Proof

/-- An unsigned 64-bit quantity: a duration, a timestamp, an elapsed value (R12). -/
abbrev U64 := BitVec 64

/-- A millisecond argument of the scheduler interface (R38, R98). -/
abbrev U32 := BitVec 32

/-- One payload byte, an opcode byte, or the pulse count at the decoder port (R93, R102, R104). -/
abbrev Byte := BitVec 8

/-- The event word `EW[71:0]`: opcode in the top byte, operand below (R102). -/
abbrev EventWord := BitVec 72

/-- The Pulse record `P[64:0]`: level bit above a 64-bit duration (R91). -/
abbrev PulseRecord := BitVec 65

/-- One transfer at the input port: an event word, or a Pulse record that follows a decoder word (R102, R104). The spec
gives both widths and their order and no common carrier, so the port carries them as two kinds of item
(DESIGN CHOICE, log 27, safe). -/
inductive PortWord where
  | event  (ew : EventWord)
  | record (p : PulseRecord)
  deriving DecidableEq, Repr

end Sys2Proof
end

