-- ==== Sys2Proof/Syntax.lean ====
section
/-! DEFINITION. The Pulse and DecodeResult values and the operations of IRCAP-NEC: one constructor per row of the opcode map
(spec/30_encoding.md R103), with the operands of R107. -/

namespace Sys2Proof

/-- A Pulse: a level and a duration in microseconds, equal exactly when both fields are (R21). -/
structure Pulse where
  level    : Bool
  duration : U64
  deriving DecidableEq, Repr, Inhabited

/-- DecodeResult: `Bytes(4 bytes)`, `RepeatCode` or `Rejected`, with no reason attached (R23, R94). -/
inductive DecodeResult where
  | rejected
  | repeatCode
  | bytes (b0 b1 b2 b3 : Byte)
  deriving DecidableEq, Repr, Inhabited

/-- The operations of R103. -/
inductive Instr where
  /-- `START mode_ok` (R131): the operand says whether the line accepts the requested mode. -/
  | start (modeOk : Bool)
  /-- `STOP` (R132). -/
  | stop
  /-- `ADV dt` (R160). -/
  | adv (dt : U64)
  /-- `EDGE lvl`, the macro-step of the edge path (R147). -/
  | edge (lvl : Bool)
  /-- `TICK`, the macro-step of the tick path (R149). -/
  | tick
  /-- `E_GUARD lvl` (R133). -/
  | eGuard (lvl : Bool)
  /-- `E_ACQ` (R134). -/
  | eAcq
  /-- `E_BODY` (R135). -/
  | eBody
  /-- `E_REL` (R136). -/
  | eRel
  /-- `E_UNGUARD` (R145). -/
  | eUnguard
  /-- `T_CHECK` (R141). -/
  | tCheck
  /-- `T_ACQ` (R142). -/
  | tAcq
  /-- `T_BODY` (R143). -/
  | tBody
  /-- `T_REL` (R144). -/
  | tRel
  /-- `DECODE ps` (R205). -/
  | decode (ps : List Pulse)
  /-- `ISREPEAT ps` (R195). -/
  | isRepeat (ps : List Pulse)
  deriving DecidableEq, Repr

/-- The agents that take steps (spec/00_scope.md R14). -/
inductive Agent where
  | env | edge | tick | sched | host | cons
  deriving DecidableEq, Repr

/-- The agents that take part in an operation: the agent column of R103 (NEC is one of the consumers, R14). -/
def Instr.agents : Instr → List Agent
  | .start _    => [.host]
  | .stop       => [.host]
  | .adv _      => [.env]
  | .edge _     => [.env, .edge]
  | .tick       => [.sched, .tick]
  | .eGuard _   => [.env, .edge]
  | .eAcq       => [.edge]
  | .eBody      => [.edge]
  | .eRel       => [.edge]
  | .eUnguard   => [.edge]
  | .tCheck     => [.sched, .tick]
  | .tAcq       => [.tick]
  | .tBody      => [.tick]
  | .tRel       => [.tick]
  | .decode _   => [.cons]
  | .isRepeat _ => [.cons]

/-- The nine micro-steps of the two sequences (R130); the reference arbitration runs none of them by itself (R246(ii)). -/
def Instr.isMicroStep : Instr → Bool
  | .start _    => false
  | .stop       => false
  | .adv _      => false
  | .edge _     => false
  | .tick       => false
  | .eGuard _   => true
  | .eAcq       => true
  | .eBody      => true
  | .eRel       => true
  | .eUnguard   => true
  | .tCheck     => true
  | .tAcq       => true
  | .tBody      => true
  | .tRel       => true
  | .decode _   => false
  | .isRepeat _ => false

end Sys2Proof
end

