-- ==== Sys2Proof/Config.lean ====
section
/-! DEFINITION. What an implementation fixes: the five constants and the selectable parameters of IRCAP-NEC
(spec/00_scope.md R9, R10, R13), and the free values of the model. -/

namespace Sys2Proof

/-- `BIT_ORDER` (spec/41_nec_decoder.md R203). -/
inductive BitOrder where
  | msbFirst
  | lsbFirst
  deriving DecidableEq, Repr

/-- The configuration: five constants (R9) and the two parameters that have a default (R139, R203). Every claim
quantifies over it unless it names a restriction (R15). It stands in the state as the registers of
spec/10_state.md R38, which no operation writes. -/
structure Params where
  /-- `GapUsecs`: idle threshold, microseconds. -/
  gapUsecs            : U64
  /-- `MaxElapsedMicroseconds`: upper clamp bound. -/
  maxElapsed          : U64
  /-- `MinElapsedMicroseconds`: lower clamp bound. -/
  minElapsed          : U64
  /-- `IdleCheckIntervalMs`: period of the idle check. -/
  idleCheckIntervalMs : U32
  /-- `MaxPulseCount`: buffer capacity. -/
  maxPulseCount       : Byte
  /-- `BIT_ORDER`. -/
  bitOrder            : BitOrder
  /-- `REPORT_GAP_PULSE`. -/
  reportGapPulse      : Bool
  deriving DecidableEq, Repr

/-- The defaults of R9, R139 and R203. -/
def Params.default : Params :=
  { gapUsecs            := 5000#64
    maxElapsed          := 250000#64
    minElapsed          := 50#64
    idleCheckIntervalMs := 32#32
    maxPulseCount       := 128#8
    bitOrder            := .msbFirst
    reportGapPulse      := false }

/-- The legal configurations (R10); the upper bounds of R10 are the widths of the fields. -/
abbrev Params.Legal (p : Params) : Prop :=
  1#64 ≤ p.minElapsed ∧ p.minElapsed ≤ p.maxElapsed ∧ 1#8 ≤ p.maxPulseCount ∧ 1#32 ≤ p.idleCheckIntervalMs

/-! Free values: what the decoder's internal registers hold after the `k`-th decoder call (spec/10_state.md R45,
spec/93_implementation_defined.md U6: any value). No body, so nothing can be proved of them; log 7, safe. -/

/-- `cursor` after the `k`-th decoder call. -/
opaque Config.freeCursor : Nat → Byte

/-- `bitcnt` after the `k`-th decoder call, within its stated range 0 to 32 (R45). -/
opaque Config.freeBitcnt : Nat → Fin 33

/-- `sr` after the `k`-th decoder call. -/
opaque Config.freeShift : Nat → BitVec 32

/-- `res` after the `k`-th decoder call. -/
opaque Config.freeResult : Nat → DecodeResult

end Sys2Proof
end

