-- ==== Sys2Proof/WellFormed.lean ====
section
/-! DEFINITION. Which operations can be written at the port: a decoder call carries at most 255 pulses, since its count
field has eight bits (spec/20_memory.md R63, spec/30_encoding.md R104). Every other operand is exactly as wide as its
field, so nothing else can be ill-formed. -/

namespace Sys2Proof

/-- The largest pulse count the field `n = EW[7:0]` can carry (R63, R104). -/
def maxPortPulses : Nat := 255

/-- An operation the port can carry (R63). -/
def Instr.wellFormed : Instr → Bool
  | .start _     => true
  | .stop        => true
  | .adv _       => true
  | .edge _      => true
  | .tick        => true
  | .eGuard _    => true
  | .eAcq        => true
  | .eBody       => true
  | .eRel        => true
  | .eUnguard    => true
  | .tCheck      => true
  | .tAcq        => true
  | .tBody       => true
  | .tRel        => true
  | .decode ps   => decide (ps.length ≤ maxPortPulses)
  | .isRepeat ps => decide (ps.length ≤ maxPortPulses)

end Sys2Proof
end

