-- ==== Sys2Proof/Decode.lean ====
section
/-! DEFINITION. Event words to operations and back (spec/30_encoding.md R90, R91, R102 to R107), and the opcode table as
data. Decoding is total: what selects no operation is refused by name (R105). -/

namespace Sys2Proof

/-- The sixteen opcodes of the opcode map (R103). -/
inductive Opcode where
  | start | stop | adv | edge | tick | eGuard | eAcq | eBody | eRel | eUnguard
  | tCheck | tAcq | tBody | tRel | decode | isRepeat
  deriving DecidableEq, Repr

/-- Every opcode, in the order of R103. -/
def Opcode.all : List Opcode :=
  [.start, .stop, .adv, .edge, .tick, .eGuard, .eAcq, .eBody, .eRel, .eUnguard,
   .tCheck, .tAcq, .tBody, .tRel, .decode, .isRepeat]

/-- The opcode byte `EW[71:64]` (R103). -/
def Opcode.code : Opcode → Byte
  | .start    => 0x01#8
  | .stop     => 0x02#8
  | .adv      => 0x03#8
  | .edge     => 0x04#8
  | .tick     => 0x05#8
  | .eGuard   => 0x10#8
  | .eAcq     => 0x11#8
  | .eBody    => 0x12#8
  | .eRel     => 0x13#8
  | .eUnguard => 0x14#8
  | .tCheck   => 0x18#8
  | .tAcq     => 0x19#8
  | .tBody    => 0x1A#8
  | .tRel     => 0x1B#8
  | .decode   => 0x20#8
  | .isRepeat => 0x21#8

/-- The four operand layouts of R103. -/
inductive Format where
  /-- operand all zero -/
  | z
  /-- one bool in `EW[0]` -/
  | b
  /-- a `u64` in `EW[63:0]` -/
  | q
  /-- a count in `EW[7:0]`, then that many Pulse records -/
  | l
  deriving DecidableEq, Repr

/-- The layout of each opcode's operand (R103). -/
def Opcode.format : Opcode → Format
  | .start    => .b
  | .stop     => .z
  | .adv      => .q
  | .edge     => .b
  | .tick     => .z
  | .eGuard   => .b
  | .eAcq     => .z
  | .eBody    => .z
  | .eRel     => .z
  | .eUnguard => .z
  | .tCheck   => .z
  | .tAcq     => .z
  | .tBody    => .z
  | .tRel     => .z
  | .decode   => .l
  | .isRepeat => .l

/-- The operand bits that must be zero (R90, R103). -/
def Format.reserved : Format → U64
  | .z => 0xFFFFFFFFFFFFFFFF#64
  | .b => 0xFFFFFFFFFFFFFFFE#64
  | .q => 0x0000000000000000#64
  | .l => 0xFFFFFFFFFFFFFF00#64

/-- The opcode a byte stands for, if it is one of the opcode map. -/
def opcodeOf (b : Byte) : Option Opcode :=
  Opcode.all.find? (fun o => o.code == b)

/-- Why no operation was read from the port. -/
inductive DecodeError where
  /-- Nothing stands at the port. -/
  | noWord
  /-- A Pulse record stands where an event word is due. -/
  | strayRecord
  /-- An opcode below 0x80 that the opcode map does not list (R105). -/
  | reservedOpcode (op : Byte)
  /-- An opcode 0x80 to 0xFF: an output kind, never an input (R101, R105). -/
  | outputKind (op : Byte)
  /-- A listed opcode with a nonzero reserved operand bit (R105). -/
  | reservedBits (ew : EventWord)
  /-- Fewer Pulse records follow than the count field announces (R104). -/
  | missingRecords (n : Nat)
  deriving DecidableEq, Repr

/-- What an event word says by itself: a whole operation, or a decoder call with its pulse count (R102). -/
inductive Head where
  | op (i : Instr)
  | decodeCall (n : Nat)
  | isRepeatCall (n : Nat)
  deriving DecidableEq, Repr

/-- `EW[71:64]` (R102). -/
def opcodeByte (ew : EventWord) : Byte := ew.extractLsb' 64 8

/-- `EW[63:0]` (R102). -/
def operandOf (ew : EventWord) : U64 := ew.extractLsb' 0 64

/-- `mode_ok` or `lvl`: the bool in `EW[0]` (R107). -/
def boolOperand (operand : U64) : Bool := operand.getLsbD 0

/-- `n`: `EW[7:0]`, zero-extended (R107). -/
def countOperand (operand : U64) : Nat := (operand.extractLsb' 0 8).toNat

/-- The head an opcode and its operand select (R103, R107). -/
def Opcode.head (o : Opcode) (operand : U64) : Head :=
  match o with
  | .start    => .op (.start (boolOperand operand))
  | .stop     => .op .stop
  | .adv      => .op (.adv operand)
  | .edge     => .op (.edge (boolOperand operand))
  | .tick     => .op .tick
  | .eGuard   => .op (.eGuard (boolOperand operand))
  | .eAcq     => .op .eAcq
  | .eBody    => .op .eBody
  | .eRel     => .op .eRel
  | .eUnguard => .op .eUnguard
  | .tCheck   => .op .tCheck
  | .tAcq     => .op .tAcq
  | .tBody    => .op .tBody
  | .tRel     => .op .tRel
  | .decode   => .decodeCall (countOperand operand)
  | .isRepeat => .isRepeatCall (countOperand operand)

/-- One event word by itself; a reserved opcode or a nonzero reserved bit selects no operation (R105). -/
def decodeHead (ew : EventWord) : Except DecodeError Head :=
  match opcodeOf (opcodeByte ew) with
  | none =>
    if 0x80#8 ≤ opcodeByte ew then .error (.outputKind (opcodeByte ew))
    else .error (.reservedOpcode (opcodeByte ew))
  | some o =>
    if operandOf ew &&& o.format.reserved = 0#64 then .ok (o.head (operandOf ew))
    else .error (.reservedBits ew)

/-- A Pulse record read (R91): no clamp on input (R107). -/
def pulseOfRecord (r : PulseRecord) : Pulse :=
  { level := r.getLsbD 64, duration := r.extractLsb' 0 64 }

/-- A Pulse record written (R91). -/
def recordOfPulse (p : Pulse) : PulseRecord :=
  BitVec.ofBool p.level ++ p.duration

/-- The next `n` items of the port as Pulse records, first element first (R90, R104). -/
def takeRecords : Nat → List PortWord → Option (List Pulse × List PortWord)
  | 0,     ws               => some ([], ws)
  | _ + 1, []               => none
  | _ + 1, .event _ :: _    => none
  | n + 1, .record r :: ws  =>
    match takeRecords n ws with
    | some (ps, rest) => some (pulseOfRecord r :: ps, rest)
    | none            => none

/-- The next operation at the port and what stands after it: one word, or one word and `EW[7:0]` records (R102). -/
def decode : List PortWord → Except DecodeError (Instr × List PortWord)
  | []               => .error .noWord
  | .record _ :: _   => .error .strayRecord
  | .event ew :: ws  =>
    match decodeHead ew with
    | .error e              => .error e
    | .ok (.op i)           => .ok (i, ws)
    | .ok (.decodeCall n)   =>
      match takeRecords n ws with
      | some (ps, rest) => .ok (.decode ps, rest)
      | none            => .error (.missingRecords n)
    | .ok (.isRepeatCall n) =>
      match takeRecords n ws with
      | some (ps, rest) => .ok (.isRepeat ps, rest)
      | none            => .error (.missingRecords n)

/-! The encoder, from the same tables (R103, R107). -/

/-- The opcode of an operation (R103). -/
def Instr.opcode : Instr → Opcode
  | .start _    => .start
  | .stop       => .stop
  | .adv _      => .adv
  | .edge _     => .edge
  | .tick       => .tick
  | .eGuard _   => .eGuard
  | .eAcq       => .eAcq
  | .eBody      => .eBody
  | .eRel       => .eRel
  | .eUnguard   => .eUnguard
  | .tCheck     => .tCheck
  | .tAcq       => .tAcq
  | .tBody      => .tBody
  | .tRel       => .tRel
  | .decode _   => .decode
  | .isRepeat _ => .isRepeat

/-- A bool placed in bit 0 of an operand. -/
def operandOfBool (b : Bool) : U64 := if b then 1#64 else 0#64

/-- The operand of an operation (R103, R107). -/
def Instr.operand : Instr → U64
  | .start m     => operandOfBool m
  | .stop        => 0#64
  | .adv dt      => dt
  | .edge lvl    => operandOfBool lvl
  | .tick        => 0#64
  | .eGuard lvl  => operandOfBool lvl
  | .eAcq        => 0#64
  | .eBody       => 0#64
  | .eRel        => 0#64
  | .eUnguard    => 0#64
  | .tCheck      => 0#64
  | .tAcq        => 0#64
  | .tBody       => 0#64
  | .tRel        => 0#64
  | .decode ps   => BitVec.ofNat 64 ps.length
  | .isRepeat ps => BitVec.ofNat 64 ps.length

/-- The pulses an operation carries after its word (R104). -/
def Instr.pulses : Instr → List Pulse
  | .start _     => []
  | .stop        => []
  | .adv _       => []
  | .edge _      => []
  | .tick        => []
  | .eGuard _    => []
  | .eAcq        => []
  | .eBody       => []
  | .eRel        => []
  | .eUnguard    => []
  | .tCheck      => []
  | .tAcq        => []
  | .tBody       => []
  | .tRel        => []
  | .decode ps   => ps
  | .isRepeat ps => ps

/-- The event word of an operation (R102). -/
def Instr.eventWord (i : Instr) : EventWord := i.opcode.code ++ i.operand

/-- The words of a well-formed operation: its event word, then its Pulse records (R102, R104). -/
def encode (i : Instr) : List PortWord :=
  .event i.eventWord :: i.pulses.map (fun p => .record (recordOfPulse p))

/-! The opcode table as data (spec/opcode_table.json; R103 says what `match` and `mask` are). -/

/-- One row of the opcode table. -/
structure TableRow where
  mnemonic : String
  pattern  : EventWord
  mask     : EventWord
  deriving DecidableEq, Repr

/-- The rows of the opcode table, in its order. -/
def opcodeTable : List TableRow :=
  [⟨"START",     0x010000000000000000#72, 0xFFFFFFFFFFFFFFFFFE#72⟩,
   ⟨"STOP",      0x020000000000000000#72, 0xFFFFFFFFFFFFFFFFFF#72⟩,
   ⟨"ADV",       0x030000000000000000#72, 0xFF0000000000000000#72⟩,
   ⟨"EDGE",      0x040000000000000000#72, 0xFFFFFFFFFFFFFFFFFE#72⟩,
   ⟨"TICK",      0x050000000000000000#72, 0xFFFFFFFFFFFFFFFFFF#72⟩,
   ⟨"E_GUARD",   0x100000000000000000#72, 0xFFFFFFFFFFFFFFFFFE#72⟩,
   ⟨"E_ACQ",     0x110000000000000000#72, 0xFFFFFFFFFFFFFFFFFF#72⟩,
   ⟨"E_BODY",    0x120000000000000000#72, 0xFFFFFFFFFFFFFFFFFF#72⟩,
   ⟨"E_REL",     0x130000000000000000#72, 0xFFFFFFFFFFFFFFFFFF#72⟩,
   ⟨"E_UNGUARD", 0x140000000000000000#72, 0xFFFFFFFFFFFFFFFFFF#72⟩,
   ⟨"T_CHECK",   0x180000000000000000#72, 0xFFFFFFFFFFFFFFFFFF#72⟩,
   ⟨"T_ACQ",     0x190000000000000000#72, 0xFFFFFFFFFFFFFFFFFF#72⟩,
   ⟨"T_BODY",    0x1A0000000000000000#72, 0xFFFFFFFFFFFFFFFFFF#72⟩,
   ⟨"T_REL",     0x1B0000000000000000#72, 0xFFFFFFFFFFFFFFFFFF#72⟩] ++
  [⟨"DECODE",    0x200000000000000000#72, 0xFFFFFFFFFFFFFFFF00#72⟩,
   ⟨"ISREPEAT",  0x210000000000000000#72, 0xFFFFFFFFFFFFFFFF00#72⟩]

/-- A row fits a word when the fixed bits agree (R103). -/
def TableRow.fits (r : TableRow) (ew : EventWord) : Bool := ew &&& r.mask == r.pattern

/-- The mnemonic of an operation (R103). -/
def Instr.mnemonic : Instr → String
  | .start _    => "START"
  | .stop       => "STOP"
  | .adv _      => "ADV"
  | .edge _     => "EDGE"
  | .tick       => "TICK"
  | .eGuard _   => "E_GUARD"
  | .eAcq       => "E_ACQ"
  | .eBody      => "E_BODY"
  | .eRel       => "E_REL"
  | .eUnguard   => "E_UNGUARD"
  | .tCheck     => "T_CHECK"
  | .tAcq       => "T_ACQ"
  | .tBody      => "T_BODY"
  | .tRel       => "T_REL"
  | .decode _   => "DECODE"
  | .isRepeat _ => "ISREPEAT"

/-! Words as the opcode table numbers their bits. -/

/-- How many Pulse records an event word announces: `EW[7:0]` for the two decoder opcodes, none otherwise (R102). -/
def announcedRecords (ew : EventWord) : Nat :=
  match opcodeOf (opcodeByte ew) with
  | some .decode   => countOperand (operandOf ew)
  | some .isRepeat => countOperand (operandOf ew)
  | _              => 0

/-- An operation given as one number, of which `nbits` bits are stated and the rest are zero: bits 71..0 are the event
word, and record `k` of a decoder call is the 65 bits from bit `72 + 65 * k` on. R104 says that the records follow the word and gives
no form of the two as one number: the places of the records, and that records of which no bit is stated are records of zeros and not
missing ones, are the model's choice (DESIGN CHOICE, log 35, safe). The step reads words and records, never such a number. -/
def portOfNumber (nbits w : Nat) : List PortWord :=
  let v := w % 2 ^ nbits
  let ew := BitVec.ofNat 72 v
  .event ew ::
    (List.range (announcedRecords ew)).map (fun k => .record (BitVec.ofNat 65 (v / 2 ^ (72 + 65 * k))))

/-- The instruction the decoder reads from a word numbered as the opcode table numbers it. -/
def decodeTableWord (nbits w : Nat) : Option Instr :=
  match decode (portOfNumber nbits w) with
  | .ok (i, _) => some i
  | .error _   => none

end Sys2Proof
end

