-- ==== Sys2Proof/Machine/State.lean ====
section
/-! DEFINITION. The state of IRCAP-NEC as plain data (spec/10_state.md), the reasons a step stops, and reset. -/

namespace Sys2Proof.Machine

/-- `run_state` (R34). -/
inductive RunState where
  | reset | running | stopped | fault
  deriving DecidableEq, Repr

/-- `fault_code` (R35): the reserved value 3 is never produced and is not representable (log 25). -/
inductive FaultCode where
  | none | doubleStart | lineMode
  deriving DecidableEq, Repr

/-- `lock` with its holder (R33). -/
inductive Lock where
  | free | edge | tick
  deriving DecidableEq, Repr

/-- `edge_phase` (R36). -/
inductive EdgePhase where
  | idle | guarded | locked | done | released
  deriving DecidableEq, Repr

/-- `tick_phase` (R37). -/
inductive TickPhase where
  | idle | wait | locked | done
  deriving DecidableEq, Repr

/-- `dec_state` of the sequential decoder (R45, R210). -/
inductive DecState where
  | idle | repeatCheck | leader | mark | stop | bits | done
  deriving DecidableEq, Repr

/-- FlushReason (R22). -/
inductive FlushReason where
  | idle | overflow
  deriving DecidableEq, Repr

/-- A clock: running flag and start timestamp (R27). -/
structure Clock where
  running : Bool
  start   : U64
  deriving DecidableEq, Repr

/-- The registers of the sequential decoder (R45): internal to one call. -/
structure NecRegs where
  decState : DecState
  cursor   : Byte
  /-- Six bits, in `[0, 32]`. -/
  bitcnt   : BitVec 6
  sr       : BitVec 32
  res      : DecodeResult
  deriving DecidableEq, Repr

/-- The events of the output history (R47). `flush` carries the exact sum of its durations (R146, R161(e); log 16). -/
inductive Event where
  | pulse       (level : Bool) (duration : U64)
  | flush       (pulses : List Pulse) (reason : FlushReason) (trainDuration : Nat)
  | schedArm    (initialDelayMs intervalMs : U32)
  | schedRearm  (intervalMs : U32)
  | schedStop
  | lineSetMode (input pullUp : Bool)
  | lineOnEdge  (falling rising : Bool)
  | lineOffEdge
  | fault       (code : FaultCode)
  deriving DecidableEq, Repr

/-- The result of one decoder call (R23, R93): of `DECODE`, or the bit of `ISREPEAT`. -/
inductive CallResult where
  | decoded  (r : DecodeResult)
  | isRepeat (b : Bool)
  deriving DecidableEq, Repr

/-- The state (R20, R38 to R48). -/
structure State where
  /-- The constants and parameters (R9, R13, R38); no operation writes them (R10). -/
  params           : Params
  /-- The timebase (R25). -/
  now              : U64
  /-- The level of the input line (R26). -/
  line             : Bool
  /-- `run_state` (R34). -/
  runState         : RunState
  /-- `fault_code` (R35). -/
  faultCode        : FaultCode
  /-- The pulse clock (R28). -/
  pclk             : Clock
  /-- The idle clock (R29). -/
  iclk             : Clock
  /-- The valid entries `S.buf[0 .. count-1]`, oldest first (R30); entries beyond hold no value and are not here (log 13). -/
  buf              : List Pulse
  /-- The re-entrancy guard flag (R32). -/
  guard            : Bool
  /-- The mutual-exclusion lock (R33). -/
  lock             : Lock
  /-- The sequencer register of EDGE (R36). -/
  edgePhase        : EdgePhase
  /-- The sequencer register of TICK (R37). -/
  tickPhase        : TickPhase
  /-- `sched_armed` (R39). -/
  schedArmed       : Bool
  /-- `sched_interval_ms` (R39). -/
  schedIntervalMs  : U32
  /-- `line_configured` (R40). -/
  lineConfigured   : Bool
  /-- `edge_cb_registered` (R40). -/
  edgeCbRegistered : Bool
  /-- The output history (R47). -/
  out              : List Event
  /-- The decoder's internal registers (R45, R48). -/
  nec              : NecRegs
  /-- The model's own: the exact time since the pulse clock was last started, in microseconds (DESIGN CHOICE, log 33, safe):
  `now` wraps and cannot show that R290(e) is violated. -/
  pclkAge          : Nat
  /-- The model's own: the same for the idle clock (DESIGN CHOICE, log 33, safe). -/
  iclkAge          : Nat
  /-- The model's own: the results of decoder calls, in call order (DESIGN CHOICE, log 8, safe). -/
  results          : List CallResult
  /-- The model's own: the index of the next free draw (log 7, safe). -/
  draws            : Nat
  /-- The model's own: the words still to be taken at the input port, the schedule of R15 as data (DESIGN CHOICE,
  log 1, safe). -/
  port             : List PortWord
  deriving DecidableEq, Repr

/-- `S.count`, the number of valid entries (R30). -/
def State.count (s : State) : Nat := s.buf.length

/-- Why the machine stops with a fault. -/
inductive Fault where
  /-- Raised by every operation but `ADV` in `run_state = FAULT`, the decoder calls included (log 9): no such step exists there
  (R156, R241; spec/93_implementation_defined.md U13 `stuck`). Safe: the model stops where the spec has no step. -/
  | stuckInFault (mnemonic : String)
  /-- Raised by `E_BODY` and `EDGE` when an accepted pulse meets a full buffer: `BufAppend` is defined only for
  `count < MaxPulseCount` (R17, R62). No reachable state of a legal configuration meets it. Safe (log 12). -/
  | bufAppendUndefined
  deriving DecidableEq, Repr

/-- Why a step is refused. -/
inductive Refusal where
  /-- Raised by an arm of `exec` that has no meaning yet. Safe: nothing is said of the instruction. -/
  | notModelled (mnemonic : String)
  /-- Raised by an operation whose *Enabled when* condition does not hold: the step does not exist in that state
  (R18, R106, U14 to U16). Safe: the model stops where the spec has no step (log 11). -/
  | notEnabled (mnemonic : String)
  /-- Raised by `step` when the port's next word selects no operation (R105, U17). Safe (log 19). -/
  | illegalEncoding (e : DecodeError)
  /-- Raised by `step` when nothing stands at the port: no agent takes a step (R15; log 1). Safe. -/
  | noOperation
  /-- Raised by `step` when the constants are outside the ranges of R10, where a configuration has no meaning. Safe (log 14). -/
  | illegalConfiguration
  /-- Raised by `E_BODY` and `EDGE`, and by `T_BODY` and `TICK` while the idle clock runs, when more than `2^64 - 1` microseconds
  have passed since the start of the clock they would read: the spec assumes it never happens and has no step for it
  (R290(e), U24). Safe (log 28, log 33). -/
  | clockOverrun
  /-- Raised by `DECODE` and `ISREPEAT` on a list of more than 255 pulses: refused at the port, not truncated
  (R63, R290(f), U19). Safe (log 20). -/
  | portListTooLong (n : Nat)
  deriving DecidableEq, Repr

/-- Power-on reset (R48, R280) for given values of everything R281 leaves unspecified. -/
def State.powerOn (p : Params) (now : U64) (line : Bool) (pclkStart iclkStart : U64) (schedIntervalMs : U32)
    (cursor : Byte) (bitcnt : Fin 33) (sr : BitVec 32) (res : DecodeResult) : State :=
  { params           := p
    now              := now
    line             := line
    runState         := .reset
    faultCode        := .none
    pclk             := { running := false, start := pclkStart }
    iclk             := { running := false, start := iclkStart }
    buf              := []
    guard            := false
    lock             := .free
    edgePhase        := .idle
    tickPhase        := .idle
    schedArmed       := false
    schedIntervalMs  := schedIntervalMs
    lineConfigured   := false
    edgeCbRegistered := false
    out              := []
    nec              := { decState := .idle, cursor := cursor, bitcnt := BitVec.ofNat 6 bitcnt.val, sr := sr, res := res }
    pclkAge          := 0
    iclkAge          := 0
    results          := []
    draws            := 0
    port             := [] }

/-- The machine right after reset with the default constants. The values R281 leaves unspecified are named by log 2 to 6
(DESIGN CHOICE, unsafe); statements about reset are made of `State.powerOn`, for every value of them. -/
def State.reset : State :=
  State.powerOn Params.default 0#64 false 0#64 0#64 0#32 0#8 0 0#32 .rejected

end Sys2Proof.Machine
end

