-- ==== Sys2Proof/Machine/Operands.lean ====
section
/-! DEFINITION. The computed quantities of the capture engine: clamp, elapsed time, train duration, the constructed pulse
(spec/10_state.md R24, R27; spec/30_encoding.md R107; spec/40_capture_engine.md R161). -/

namespace Sys2Proof.Machine

/-- `clamp(e)` (R24). -/
def clamp (p : Params) (e : U64) : U64 :=
  if e < p.minElapsed then p.minElapsed
  else if p.maxElapsed < e then p.maxElapsed
  else e

/-- `elapsed(c)` at a timestamp: the difference modulo `2^64` (R27, R161(a)). -/
def elapsed (now : U64) (c : Clock) : U64 := now - c.start

/-- `sum(ps)`: the exact sum of the durations, a natural number (R17, R146). -/
def trainDuration (ps : List Pulse) : Nat := (ps.map (fun p => p.duration.toNat)).sum

/-- The pulse an edge body constructs: the interval that ended at this edge, clamped, with the level read after it
(R135, R137). -/
def constructedPulse (s : State) : Pulse :=
  { level := s.line, duration := clamp s.params (elapsed s.now s.pclk) }

/-- The capacity `MaxPulseCount` as a number of entries (R30). -/
def capacity (p : Params) : Nat := p.maxPulseCount.toNat

end Sys2Proof.Machine
end

