-- ==== Sys2Proof/Machine/Flags.lean ====
section
/-! DEFINITION. The conditions of the block: the comparisons of R43 and R161, evaluated and used inside one step and never
stored, and the *Enabled when* condition of every operation (spec/40_capture_engine.md). -/

namespace Sys2Proof.Machine

/-- The outcome of an operation. -/
abbrev Result := Host.Outcome State Fault Refusal

/-- One outcome after another: the second runs on the state the first leaves, and the first stop is the whole's. -/
def andThen (o : Result) (k : State → Result) : Result :=
  match o with
  | .next s    => k s
  | .fault r   => .fault r
  | .refused r => .refused r

/-- A step that exists only where `can` holds (R18, R106). In `FAULT` no step but `ADV` exists, whatever the phases
(R131, R156, R241): there the machine is stuck (U13; log 9, log 10, log 11). -/
def whenEnabled (mnemonic : String) (can : Prop) [Decidable can] (s : State) (effect : Result) : Result :=
  if s.runState = .fault then .fault (.stuckInFault mnemonic)
  else if can then effect
  else .refused (.notEnabled mnemonic)

/-! Comparisons. -/

/-- The append condition: strictly less than the upper clamp bound (R138). -/
abbrev Accepted (p : Params) (d : U64) : Prop := d < p.maxElapsed

/-- There is room for `BufAppend` (R17, R62). -/
abbrev HasRoom (s : State) : Prop := s.count < capacity s.params

/-- The Overflow test `count = MaxPulseCount` (R140). -/
abbrev AtCapacity (s : State) : Prop := s.count = capacity s.params

/-- The three conditions under which a tick body flushes: the idle clock runs, it has reached `GapUsecs`, and the buffer is not
empty (R143, R155). -/
abbrev IdleFlushDue (s : State) : Prop :=
  s.iclk.running = true ∧ s.params.gapUsecs ≤ elapsed s.now s.iclk ∧ s.count ≠ 0

/-- At most `2^64 - 1` microseconds have passed since the pulse clock was started, so that `elapsed` is the true time
(R161(a), R290(e), R299). -/
abbrev PulseClockReadable (s : State) : Prop := s.pclkAge < 2 ^ 64

/-- The same for the idle clock; a stopped one is not read (R27, R143). -/
abbrev IdleClockReadable (s : State) : Prop := s.iclk.running = false ∨ s.iclkAge < 2 ^ 64

/-! Enabling conditions. -/

/-- `STOP` (R132). -/
abbrev CanStop (s : State) : Prop := s.runState = .running ∧ s.edgePhase = .idle ∧ s.tickPhase = .idle

/-- `E_GUARD` (R133). -/
abbrev CanGuard (s : State) : Prop := s.runState = .running ∧ s.edgeCbRegistered = true ∧ s.edgePhase = .idle

/-- `E_ACQ` (R134). -/
abbrev CanEdgeAcquire (s : State) : Prop := s.edgePhase = .guarded ∧ s.lock = .free

/-- `E_BODY` (R135). -/
abbrev CanEdgeBody (s : State) : Prop := s.edgePhase = .locked

/-- `E_REL` (R136). -/
abbrev CanEdgeRelease (s : State) : Prop := s.edgePhase = .done

/-- `E_UNGUARD` (R145). -/
abbrev CanUnguard (s : State) : Prop := s.edgePhase = .released

/-- `EDGE` (R147). -/
abbrev CanEdge (s : State) : Prop := CanGuard s ∧ s.lock = .free

/-- `T_CHECK` and `TICK` (R141, R149). -/
abbrev CanCheck (s : State) : Prop := s.runState = .running ∧ s.schedArmed = true ∧ s.tickPhase = .idle

/-- `T_ACQ` (R142). -/
abbrev CanTickAcquire (s : State) : Prop := s.tickPhase = .wait ∧ s.lock = .free

/-- `T_BODY` (R143). -/
abbrev CanTickBody (s : State) : Prop := s.tickPhase = .locked

/-- `T_REL` (R144). -/
abbrev CanTickRelease (s : State) : Prop := s.tickPhase = .done

end Sys2Proof.Machine
end

