-- ==== Sys2Proof/Machine/Ops.lean ====
section
/-! DEFINITION. The named operations over the state: events, clocks, the fault entry, the buffer primitives, the flush, and
the effect of each micro-step once it is enabled (spec/00_scope.md R17, spec/10_state.md R27, spec/20_memory.md R61,
spec/40_capture_engine.md). -/

namespace Sys2Proof.Machine

/-- `emit K`: append an event to the output history (R47); it always succeeds (R249). -/
def emit (e : Event) (s : State) : State := { s with out := s.out ++ [e] }

/-- `raise Fault(code)`: the block's one exception entry (R241, R247). It saves nothing, goes nowhere, and is sticky. -/
def raiseFault (c : FaultCode) (s : State) : State :=
  emit (.fault c) { s with runState := .fault, faultCode := c }

/-- `c.start()` and `c.restart()`: running, from now (R27). -/
def startedClock (now : U64) : Clock := { running := true, start := now }

/-- `c.reset()`: not running, the start kept (R27). -/
def stoppedClock (c : Clock) : Clock := { c with running := false }

/-! The buffer (R61). -/

/-- `BufAppend(p)` (R17). -/
def bufAppend (p : Pulse) (s : State) : State := { s with buf := s.buf ++ [p] }

/-- `BufSnapshot()`: a copy of the valid entries, oldest first (R17). -/
def bufSnapshot (s : State) : List Pulse := s.buf

/-- `BufClear()` (R17). -/
def bufClear (s : State) : State := { s with buf := [] }

/-- The form every operation keeps: no more entries than the capacity (R31(a)). -/
def State.bufWf (s : State) : Bool := decide (s.count ≤ capacity s.params)

/-- `Flush(reason)` (R146): snapshot, event with the exact sum, clear. -/
def flush (r : FlushReason) (s : State) : State :=
  bufClear (emit (.flush (bufSnapshot s) r (trainDuration (bufSnapshot s))) s)

/-! Host operations. -/

/-- `START` where it is accepted: both clocks, the callback, the scheduler, in the order of R131, after `LineSetMode`. -/
def startAccepted (s : State) : State :=
  let s1 := { s with
    lineConfigured := true, pclk := startedClock s.now, iclk := startedClock s.now, pclkAge := 0, iclkAge := 0 }
  let s2 := { emit (.lineOnEdge true true) s1 with edgeCbRegistered := true }
  { emit (.schedArm 0#32 s2.params.idleCheckIntervalMs) s2 with
    schedArmed := true, schedIntervalMs := s2.params.idleCheckIntervalMs, runState := .running }

/-- `START` (R131): the state test first (R243), then the line's answer. -/
def startEffect (modeOk : Bool) (s : State) : State :=
  if s.runState ≠ .reset then raiseFault .doubleStart s
  else
    let s' := emit (.lineSetMode true true) s
    if modeOk then startAccepted s' else raiseFault .lineMode s'

/-- `STOP` (R132). -/
def stopEffect (s : State) : State :=
  let s1 := { emit .lineOffEdge s with edgeCbRegistered := false }
  { emit .schedStop s1 with schedArmed := false, runState := .stopped }

/-- `ADV dt` (R160); both clocks grow older by as much, whether `now` wraps or not (log 33). -/
def advance (dt : U64) (s : State) : State :=
  { s with now := s.now + dt, pclkAge := s.pclkAge + dt.toNat, iclkAge := s.iclkAge + dt.toNat }

/-! The edge path. -/

/-- `E_GUARD lvl` (R133). -/
def guardEffect (lvl : Bool) (s : State) : State := { s with line := lvl, guard := true, edgePhase := .guarded }

/-- `E_ACQ` (R134). -/
def edgeAcquireEffect (s : State) : State := { s with lock := .edge, edgePhase := .locked }

/-- The first actions of the edge body: the idle clock restarts and the scheduler is rearmed (R135). -/
def rearm (s : State) : State :=
  emit (.schedRearm s.params.idleCheckIntervalMs)
    { s with iclk := startedClock s.now, iclkAge := 0, schedIntervalMs := s.params.idleCheckIntervalMs }

/-- `S.pclk_start <- t` (R135). -/
def restartPulseClock (s : State) : State := { s with pclk := { s.pclk with start := s.now }, pclkAge := 0 }

/-- The append test: an accepted pulse is appended and reported (R138), a gap pulse is dropped and reported only with
`REPORT_GAP_PULSE` (R139). `BufAppend` into a full buffer is undefined (R17; log 12). -/
def recordPulse (p : Pulse) (s : State) : Result :=
  if Accepted s.params p.duration then
    if HasRoom s then .next (emit (.pulse p.level p.duration) (bufAppend p s)) else .fault .bufAppendUndefined
  else if s.params.reportGapPulse then .next (emit (.pulse p.level p.duration) s)
  else .next s

/-- The Overflow test after the append (R140). -/
def overflowCheck (s : State) : State := if AtCapacity s then flush .overflow s else s

/-- The edge body (R135): everything at the one timestamp `S.now`; the pulse is measured before the pulse clock restarts. -/
def edgeBodyEffect (s : State) : Result :=
  andThen (recordPulse (constructedPulse s) (restartPulseClock (rearm s)))
    (fun s' => .next { overflowCheck s' with edgePhase := .done })

/-- `E_BODY`: the edge body, on a pulse clock that can still be read (R135, R290(e)). -/
def edgeBody (s : State) : Result := if PulseClockReadable s then edgeBodyEffect s else .refused .clockOverrun

/-- `E_REL` (R136). -/
def edgeReleaseEffect (s : State) : State := { s with lock := .free, edgePhase := .released }

/-- `E_UNGUARD` (R145). -/
def unguardEffect (s : State) : State := { s with guard := false, edgePhase := .idle }

/-! The tick path. -/

/-- `T_CHECK` (R141): dropped without a trace when the guard is set. -/
def checkEffect (s : State) : State := if s.guard then s else { s with tickPhase := .wait }

/-- `T_ACQ` (R142). -/
def tickAcquireEffect (s : State) : State := { s with lock := .tick, tickPhase := .locked }

/-- The tick body (R143, R155). -/
def tickBodyEffect (s : State) : State :=
  if IdleFlushDue s then { flush .idle s with iclk := stoppedClock s.iclk, tickPhase := .done }
  else { s with tickPhase := .done }

/-- `T_BODY`: the tick body, on an idle clock that is stopped or can still be read (R143, R290(e)). -/
def tickBody (s : State) : Result := if IdleClockReadable s then .next (tickBodyEffect s) else .refused .clockOverrun

/-- `T_REL` (R144). -/
def tickReleaseEffect (s : State) : State := { s with lock := .free, tickPhase := .idle }

/-! Decoder calls. -/

/-- What the decoder's internal registers hold after the `k`-th call: free values, `dec_state` idle (R45, R210 `D_DONE`, U6;
log 7, safe). -/
def drawnNecRegs (k : Nat) : NecRegs :=
  { decState := .idle
    cursor   := Config.freeCursor k
    bitcnt   := BitVec.ofNat 6 (Config.freeBitcnt k).val
    sr       := Config.freeShift k
    res      := Config.freeResult k }

/-- The end of a decoder call: its result is presented (log 8); no other architectural state moves (R41, R44). -/
def finishCall (r : CallResult) (s : State) : State :=
  { s with results := s.results ++ [r], nec := drawnNecRegs s.draws, draws := s.draws + 1 }

end Sys2Proof.Machine
end

