-- ==== Sys2Proof/Machine/Control.lean ====
section
/-! DEFINITION. The host and environment operations: START, STOP, ADV (spec/40_capture_engine.md R131, R132, R160). -/

namespace Sys2Proof.Machine

/-- `START` (R131): enabled in every run state but `FAULT`; either fault is a next state (R241, R242). -/
def execStart (modeOk : Bool) (s : State) : Result := whenEnabled "START" True s (.next (startEffect modeOk s))

/-- `STOP` (R132). -/
def execStop (s : State) : Result := whenEnabled "STOP" (CanStop s) s (.next (stopEffect s))

/-- `ADV dt` (R160): always enabled, also in `FAULT`. -/
def execAdv (dt : U64) (s : State) : Result := .next (advance dt s)

end Sys2Proof.Machine
end

