-- ==== Sys2Proof/Machine/Nec.lean ====
section
/-! DEFINITION. The NEC protocol decoder as the pure functions of spec/41_nec_decoder.md: windows, scans, `is_repeat_code`,
`decode`. -/

namespace Sys2Proof.Nec

open Sys2Proof.Machine (trainDuration)

/-! Windows and classes. -/

/-- `in_win(d, lo, hi)`: both ends included (R17), all 64 bits compared (R211). -/
def inWindow (lo hi : Nat) (d : U64) : Bool := decide (lo ≤ d.toNat) && decide (d.toNat ≤ hi)

/-- Short pulse, 400 to 700 (R190). -/
def inShort (d : U64) : Bool := inWindow 400 700 d

/-- Burst space (AGC leader), 7200 to 10800 (R190). -/
def inSpace (d : U64) : Bool := inWindow 7200 10800 d

/-- Burst mark (leader low), 3900 to 5100 (R190). -/
def inMark (d : U64) : Bool := inWindow 3900 5100 d

/-- Repeat-code mark, 2000 to 3000 (R190). -/
def inRepeatMark (d : U64) : Bool := inWindow 2000 3000 d

/-- The one-hot class of the comparator tree (R211). -/
inductive PulseClass where
  | short | rmark | mark | space | other
  deriving DecidableEq, Repr

/-- The comparator tree (R211). -/
def classify (d : U64) : PulseClass :=
  if inShort d then .short
  else if inRepeatMark d then .rmark
  else if inMark d then .mark
  else if inSpace d then .space
  else .other

/-- A burst space: level `true` (R190, R197). -/
def isLeader (p : Pulse) : Bool := p.level && inSpace p.duration

/-- A burst mark: level `false` (R190, R198). -/
def isHeaderMark (p : Pulse) : Bool := !p.level && inMark p.duration

/-- A repeat-code mark: level `false` (R190, R195). -/
def isRepeatMark (p : Pulse) : Bool := !p.level && inRepeatMark p.duration

/-- A short pulse of level `true`: a bit space, the stop pulse, the third pulse of a repeat code (R195, R199, R200). -/
def isShortHigh (p : Pulse) : Bool := p.level && inShort p.duration

/-- `find_first(ps, from, pred)` (R193). -/
def findFirst (ps : List Pulse) (start : Nat) (pred : Pulse → Bool) : Option Nat :=
  ((ps.drop start).findIdx? pred).map (fun k => k + start)

/-! The repeat code. -/

/-- The window of the exact four-pulse sum, both ends included (R194). -/
def inRepeatSum (n : Nat) : Bool := decide (12000 ≤ n) && decide (n ≤ 120000)

/-- `is_repeat_code(pulses)`: the six numbered steps of R195. -/
def isRepeatCode (ps : List Pulse) : Bool :=
  if ps.length ≠ 4 then false
  else if inRepeatSum (trainDuration ps) = false then false
  else
    match findFirst ps 0 isLeader with
    | none   => false
    | some i =>
      if ps.length - (i + 1) < 2 then false
      else
        match ps[i + 1]?, ps[i + 2]? with
        | some m, some p => isRepeatMark m && isShortHigh p
        | _,      _      => false

/-! The full decode. -/

/-- A valid pair (R200): the mark's duration plays no part. -/
def validPair (space mark : Pulse) : Bool := isShortHigh space && !mark.level

/-- The bit of a valid pair: 0 exactly when the mark is short (R201). -/
def markBit (mark : Pulse) : Bool := !inShort mark.duration

/-- The pair walk (R200, R202): stride two whether or not the pair was valid, at most 32 bits, a single pulse left over is
ignored. The list is what lies between the cursor and the last pulse. -/
def walkPairs : List Pulse → List Bool → List Bool
  | space :: mark :: rest, bits =>
    if bits.length < 32 then walkPairs rest (if validPair space mark then bits ++ [markBit mark] else bits) else bits
  | [_], bits => bits
  | [],  bits => bits

/-- Eight accumulated bits, in the order they were met, as one byte (R203). -/
def packByte (order : BitOrder) (bits : List Bool) : Byte :=
  match order with
  | .msbFirst => bits.foldl (fun acc b => (acc <<< 1) ||| (BitVec.ofBool b).setWidth 8) 0#8
  | .lsbFirst => bits.foldr (fun b acc => (acc <<< 1) ||| (BitVec.ofBool b).setWidth 8) 0#8

/-- 32 bits as four bytes: the first eight bits form `b0` for either order (R203, R204). -/
def pack (order : BitOrder) (bits : List Bool) : DecodeResult :=
  .bytes (packByte order (bits.take 8)) (packByte order ((bits.drop 8).take 8))
    (packByte order ((bits.drop 16).take 8)) (packByte order ((bits.drop 24).take 8))

/-- Steps 4 to 6 of `decode` with the cursor past the header mark: stop bit, pair walk, packing (R199 to R204). -/
def decodeBody (order : BitOrder) (ps : List Pulse) (cursor : Nat) : DecodeResult :=
  match ps.getLast? with
  | none      => .rejected
  | some last =>
    if isShortHigh last then
      let bits := walkPairs (ps.dropLast.drop cursor) []
      if bits.length < 32 then .rejected else pack order bits
    else .rejected

/-- `decode(pulses)` (R205). -/
def decodeTrain (order : BitOrder) (ps : List Pulse) : DecodeResult :=
  if isRepeatCode ps then .repeatCode
  else
    match findFirst ps 0 isLeader with
    | none   => .rejected
    | some i =>
      match findFirst ps (i + 1) isHeaderMark with
      | none   => .rejected
      | some j => decodeBody order ps (j + 1)

/-! The synthetic train of R110. -/

/-- The bits of a byte in the order they are sent (R110, R203). -/
def bitsOfByte (order : BitOrder) (b : Byte) : List Bool :=
  match order with
  | .msbFirst => [b.getLsbD 7, b.getLsbD 6, b.getLsbD 5, b.getLsbD 4, b.getLsbD 3, b.getLsbD 2, b.getLsbD 1, b.getLsbD 0]
  | .lsbFirst => [b.getLsbD 0, b.getLsbD 1, b.getLsbD 2, b.getLsbD 3, b.getLsbD 4, b.getLsbD 5, b.getLsbD 6, b.getLsbD 7]

/-- Leader, header mark, one pair per mark duration with a space of `sp`, and the stop pulse (R110). -/
def frameOfMarks (sp : U64) (marks : List U64) : List Pulse :=
  [⟨true, 9000#64⟩, ⟨false, 4500#64⟩] ++ marks.flatMap (fun m => [⟨true, sp⟩, ⟨false, m⟩]) ++ [⟨true, 560#64⟩]

/-- `NECFRAME(b0, b1, b2, b3; one, zero, sp)` (R110). -/
def necFrame (order : BitOrder) (b0 b1 b2 b3 : Byte) (one zero sp : U64) : List Pulse :=
  frameOfMarks sp
    ((bitsOfByte order b0 ++ bitsOfByte order b1 ++ bitsOfByte order b2 ++ bitsOfByte order b3).map
      (fun v => if v then one else zero))

/-- `NECFRAME` with the defaults of R110; 1690 for a long mark is PRESUMED (the spec's G1, general knowledge). -/
def necFrameDefault (order : BitOrder) (b0 b1 b2 b3 : Byte) : List Pulse :=
  necFrame order b0 b1 b2 b3 1690#64 560#64 560#64

end Sys2Proof.Nec
end

