-- ==== Sys2Proof/Machine/Decoder.lean ====
section
/-! DEFINITION. The decoder calls DECODE and ISREPEAT (spec/41_nec_decoder.md R192, R195, R205): enabled for
anyone in every run state but `FAULT` (R195, R205, R251), where the only enabled step is `ADV` (R156, R241, U13; log 9); one step
each (R312); refused past the port's 255 pulses (R63, U19; log 20). -/

namespace Sys2Proof.Machine

/-- A decoder call at the port: stuck in `FAULT` (U13), as every operation but `ADV` is. -/
def portCall (mnemonic : String) (ps : List Pulse) (r : CallResult) (s : State) : Result :=
  whenEnabled mnemonic True s
    (if maxPortPulses < ps.length then .refused (.portListTooLong ps.length) else .next (finishCall r s))

/-- `DECODE ps` (R205). -/
def execDecode (ps : List Pulse) (s : State) : Result :=
  portCall "DECODE" ps (.decoded (Nec.decodeTrain s.params.bitOrder ps)) s

/-- `ISREPEAT ps` (R195). -/
def execIsRepeat (ps : List Pulse) (s : State) : Result :=
  portCall "ISREPEAT" ps (.isRepeat (Nec.isRepeatCode ps)) s

end Sys2Proof.Machine
end

