-- ==== Sys2Proof/Machine/Edge.lean ====
section
/-! DEFINITION. The edge path: the macro-step EDGE and the micro-steps E_GUARD, E_ACQ, E_BODY, E_REL, E_UNGUARD
(spec/40_capture_engine.md R133 to R136, R145, R147). -/

namespace Sys2Proof.Machine

/-- `EDGE lvl` (R147): the five micro-steps with no other step between them. -/
def execEdge (lvl : Bool) (s : State) : Result :=
  whenEnabled "EDGE" (CanEdge s) s
    (andThen (edgeBody (edgeAcquireEffect (guardEffect lvl s)))
      (fun s' => .next (unguardEffect (edgeReleaseEffect s'))))

/-- `E_GUARD lvl` (R133): the lock is not needed. -/
def execEGuard (lvl : Bool) (s : State) : Result := whenEnabled "E_GUARD" (CanGuard s) s (.next (guardEffect lvl s))

/-- `E_ACQ` (R134). -/
def execEAcq (s : State) : Result := whenEnabled "E_ACQ" (CanEdgeAcquire s) s (.next (edgeAcquireEffect s))

/-- `E_BODY` (R135). -/
def execEBody (s : State) : Result := whenEnabled "E_BODY" (CanEdgeBody s) s (edgeBody s)

/-- `E_REL` (R136). -/
def execERel (s : State) : Result := whenEnabled "E_REL" (CanEdgeRelease s) s (.next (edgeReleaseEffect s))

/-- `E_UNGUARD` (R145). -/
def execEUnguard (s : State) : Result := whenEnabled "E_UNGUARD" (CanUnguard s) s (.next (unguardEffect s))

end Sys2Proof.Machine
end

