-- ==== Sys2Proof/Machine/Tick.lean ====
section
/-! DEFINITION. The tick path: the macro-step TICK and the micro-steps T_CHECK, T_ACQ, T_BODY, T_REL
(spec/40_capture_engine.md R141 to R144, R149). -/

namespace Sys2Proof.Machine

/-- `TICK` (R149): `T_CHECK`, then, only if it moved to `T_WAIT`, `T_ACQ; T_BODY; T_REL`. With the guard clear the lock is free in
every reachable state (R49); in the others `T_ACQ` is not enabled and so the macro-step is not either (log 17). -/
def execTick (s : State) : Result :=
  whenEnabled "TICK" (CanCheck s) s
    (if s.guard then .next (checkEffect s)
     else whenEnabled "TICK" (CanTickAcquire (checkEffect s)) (checkEffect s)
       (andThen (tickBody (tickAcquireEffect (checkEffect s))) (fun s' => .next (tickReleaseEffect s'))))

/-- `T_CHECK` (R141). -/
def execTCheck (s : State) : Result := whenEnabled "T_CHECK" (CanCheck s) s (.next (checkEffect s))

/-- `T_ACQ` (R142). -/
def execTAcq (s : State) : Result := whenEnabled "T_ACQ" (CanTickAcquire s) s (.next (tickAcquireEffect s))

/-- `T_BODY` (R143). -/
def execTBody (s : State) : Result := whenEnabled "T_BODY" (CanTickBody s) s (tickBody s)

/-- `T_REL` (R144). -/
def execTRel (s : State) : Result := whenEnabled "T_REL" (CanTickRelease s) s (.next (tickReleaseEffect s))

end Sys2Proof.Machine
end

