-- ==== Sys2Proof/Machine/Dispatch.lean ====
section
/-! DEFINITION. exec: one arm per operation of the opcode map (spec/30_encoding.md R103). -/

namespace Sys2Proof.Machine

def exec (i : Instr) (s : State) : Host.Outcome State Fault Refusal :=
  match i with
  | .start modeOk => Sys2Proof.Machine.execStart modeOk s
  | .stop => Sys2Proof.Machine.execStop s
  | .adv dt => Sys2Proof.Machine.execAdv dt s
  | .edge lvl => Sys2Proof.Machine.execEdge lvl s
  | .tick => Sys2Proof.Machine.execTick s
  | .eGuard lvl => Sys2Proof.Machine.execEGuard lvl s
  | .eAcq => Sys2Proof.Machine.execEAcq s
  | .eBody => Sys2Proof.Machine.execEBody s
  | .eRel => Sys2Proof.Machine.execERel s
  | .eUnguard => Sys2Proof.Machine.execEUnguard s
  | .tCheck => Sys2Proof.Machine.execTCheck s
  | .tAcq => Sys2Proof.Machine.execTAcq s
  | .tBody => Sys2Proof.Machine.execTBody s
  | .tRel => Sys2Proof.Machine.execTRel s
  | .decode ps => Sys2Proof.Machine.execDecode ps s
  | .isRepeat ps => Sys2Proof.Machine.execIsRepeat ps s

end Sys2Proof.Machine
end

