-- ==== Sys2Proof/Machine/Fetch.lean ====
section
/-! DEFINITION. Taking the next operation from the input port (spec/30_encoding.md R102 to R106; log 1), and placing one there. -/

namespace Sys2Proof.Machine

/-- The next operation and the state with its words taken from the port. A configuration outside R10 has no meaning and is
refused; words that select no operation are refused (R105); an empty port means that no agent takes a step (R15). -/
def fetch (s : State) : Except Refusal (Instr × State) :=
  if s.params.Legal then
    match decode s.port with
    | .ok (i, rest)   => .ok (i, { s with port := rest })
    | .error .noWord  => .error .noOperation
    | .error e        => .error (.illegalEncoding e)
  else .error .illegalConfiguration

/-- The words of an operation queued behind what stands at the port; a list of more than 255 pulses is refused there, not
truncated (R63, U19). -/
def issue (i : Instr) (s : State) : Option State :=
  if i.wellFormed then some { s with port := s.port ++ encode i } else none

/-- An operation given as one number, placed in front of what stands at the port. -/
def placeNumber (s : State) (nbits w : Nat) : State := { s with port := portOfNumber nbits w ++ s.port }

end Sys2Proof.Machine
end

