-- ==== Sys2Proof/Machine/Step.lean ====
section
/-! DEFINITION. One step: the next operation at the input port is taken and run (log 1). -/

namespace Sys2Proof.Machine

/-- One step of the block: whichever agent's operation stands first at the port. -/
def step (s : State) : Host.Outcome State Fault Refusal :=
  match fetch s with
  | .ok (i, s') => exec i s'
  | .error r    => .refused r

/-- The state with one operation, numbered as the opcode table numbers its bits, standing first at the port. -/
def State.withFetchWord (s : State) (nbits w : Nat) : State := placeNumber s nbits w

end Sys2Proof.Machine
end

