-- ==== Sys2Proof/Machine/Formats.lean ====
section
/-! DEFINITION. The bit layouts of results, output events and enumerated registers (spec/30_encoding.md R92, R93, R95 to
R101). They are never visible in a rule of behaviour (R46, R95). -/

namespace Sys2Proof.Machine

/-! Enumerated registers (R95). -/

/-- `run_state[1:0]`. -/
def RunState.code : RunState → BitVec 2
  | .reset   => 0#2
  | .running => 1#2
  | .stopped => 2#2
  | .fault   => 3#2

/-- `fault_code[1:0]`. -/
def FaultCode.code : FaultCode → BitVec 2
  | .none        => 0#2
  | .doubleStart => 1#2
  | .lineMode    => 2#2

/-- `lock[1:0]`. -/
def Lock.code : Lock → BitVec 2
  | .free => 0#2
  | .edge => 1#2
  | .tick => 2#2

/-- `edge_phase[2:0]`. -/
def EdgePhase.code : EdgePhase → BitVec 3
  | .idle     => 0#3
  | .guarded  => 1#3
  | .locked   => 2#3
  | .done     => 3#3
  | .released => 4#3

/-- `tick_phase[1:0]`. -/
def TickPhase.code : TickPhase → BitVec 2
  | .idle   => 0#2
  | .wait   => 1#2
  | .locked => 2#2
  | .done   => 3#2

/-- `dec_state[2:0]`. -/
def DecState.code : DecState → BitVec 3
  | .idle        => 0#3
  | .repeatCheck => 1#3
  | .leader      => 2#3
  | .mark        => 3#3
  | .stop        => 4#3
  | .bits        => 5#3
  | .done        => 6#3

/-- FlushReason (R92). -/
def FlushReason.code : FlushReason → BitVec 1
  | .idle     => 0#1
  | .overflow => 1#1

/-! Results (R93). -/

/-- `DR[33:0]`: tag, then the four bytes. -/
def decodeResultBits : DecodeResult → BitVec 34
  | .rejected         => 0#2 ++ 0#32
  | .repeatCode       => 1#2 ++ 0#32
  | .bytes b0 b1 b2 b3 => 2#2 ++ (b0 ++ b1 ++ b2 ++ b3)

/-- The bits a decoder call returns: `DR`, or the one bit of `ISREPEAT`. -/
inductive ResultWire where
  | dr  (bits : BitVec 34)
  | bit (b : BitVec 1)
  deriving DecidableEq, Repr

/-- A call's result on the wire (R93). -/
def CallResult.wire : CallResult → ResultWire
  | .decoded r  => .dr (decodeResultBits r)
  | .isRepeat b => .bit (BitVec.ofBool b)

/-! Output events (R96 to R101). -/

/-- What leaves the block for one event: `PE[72:0]`, a flush header `FH[80:0]` with its records, or a 72-bit word. -/
inductive EventWire where
  | pulse (pe : BitVec 73)
  | flush (header : BitVec 81) (records : List PulseRecord)
  | word  (w : BitVec 72)
  deriving DecidableEq, Repr

/-- `PE[72:0]` (R96). -/
def pulseEventBits (level : Bool) (duration : U64) : BitVec 73 := 0x81#8 ++ (BitVec.ofBool level ++ duration)

/-- `FH[80:0]` (R97). -/
def flushHeaderBits (reason : FlushReason) (n : Nat) (total : Nat) : BitVec 81 :=
  0x82#8 ++ (reason.code ++ (BitVec.ofNat 8 n ++ BitVec.ofNat 64 total))

/-- The wire form of an event. A flush whose exact sum does not fit 64 bits, or with more than 255 pulses, has no layout in R97:
`none` (log 16). -/
def Event.wire : Event → Option EventWire
  | .pulse level duration => some (.pulse (pulseEventBits level duration))
  | .flush ps reason total =>
    if ps.length ≤ 255 ∧ total < 2 ^ 64 then
      some (.flush (flushHeaderBits reason ps.length total) (ps.map recordOfPulse))
    else none
  | .schedArm d iv       => some (.word (0x83#8 ++ (d ++ iv)))
  | .schedRearm iv       => some (.word (0x84#8 ++ (0#32 ++ iv)))
  | .schedStop           => some (.word (0x85#8 ++ 0#64))
  | .lineSetMode i u     => some (.word (0x86#8 ++ (0#62 ++ (BitVec.ofBool i ++ BitVec.ofBool u))))
  | .lineOnEdge f r      => some (.word (0x87#8 ++ (0#62 ++ (BitVec.ofBool f ++ BitVec.ofBool r))))
  | .lineOffEdge         => some (.word (0x88#8 ++ 0#64))
  | .fault c             => some (.word (0x8F#8 ++ (0#62 ++ c.code)))

/-- The kind byte of an event (R96 to R101). -/
def Event.kind : Event → Byte
  | .pulse _ _       => 0x81#8
  | .flush _ _ _     => 0x82#8
  | .schedArm _ _    => 0x83#8
  | .schedRearm _    => 0x84#8
  | .schedStop       => 0x85#8
  | .lineSetMode _ _ => 0x86#8
  | .lineOnEdge _ _  => 0x87#8
  | .lineOffEdge     => 0x88#8
  | .fault _         => 0x8F#8

/-- A flush replayed to the decoder: its count and its records copied behind a `DECODE` word (R104). -/
def replayToDecoder (ps : List Pulse) : List PortWord :=
  .event (Opcode.decode.code ++ BitVec.ofNat 64 ps.length) :: ps.map (fun p => .record (recordOfPulse p))

end Sys2Proof.Machine
end

