-- ==== Sys2Proof/Machine/NecSeq.lean ====
section
/-! DEFINITION. The sequential refinement of the decoder, one step of the table of spec/41_nec_decoder.md R210 at a time, over
the registers of spec/10_state.md R45. The function of R205 is normative; this machine is the spec's reference realisation
(log 29). `none` is a register content the table has no row for. -/

namespace Sys2Proof.Nec

open Sys2Proof.Machine (NecRegs DecState)

/-- The four bytes taken from the shift register; with `LSB_FIRST` the bits of each byte are reversed (R203, R210). -/
def bytesOfShift (order : BitOrder) (sr : BitVec 32) : DecodeResult :=
  let b0 := sr.extractLsb' 24 8
  let b1 := sr.extractLsb' 16 8
  let b2 := sr.extractLsb' 8 8
  let b3 := sr.extractLsb' 0 8
  match order with
  | .msbFirst => .bytes b0 b1 b2 b3
  | .lsbFirst => .bytes b0.reverse b1.reverse b2.reverse b3.reverse

/-- `sr <- ((sr << 1) | bit) mod 2^32` (R203, R210). -/
def shiftIn (sr : BitVec 32) (b : Bool) : BitVec 32 := (sr <<< 1) ||| (BitVec.ofBool b).setWidth 32

/-- Go to `D_DONE` with a result (R210). -/
def seqFinish (r : DecodeResult) (g : NecRegs) : NecRegs := { g with res := r, decState := .done }

/-- One scan step of `D_LEADER` or `D_MARK`: past the last pulse the train is rejected, a match moves on to `found`, any other
pulse is skipped (R210). -/
def seqScan (ps : List Pulse) (isHit : Pulse → Bool) (found : DecState) (g : NecRegs) : Option NecRegs :=
  if g.cursor.toNat = ps.length then some (seqFinish .rejected g)
  else
    match ps[g.cursor.toNat]? with
    | none   => none
    | some p =>
      if isHit p then some { g with cursor := g.cursor + 1#8, decState := found }
      else some { g with cursor := g.cursor + 1#8 }

/-- One step of `D_BITS` (R210); comparisons on the cursor do not wrap. -/
def seqBits (order : BitOrder) (ps : List Pulse) (g : NecRegs) : Option NecRegs :=
  if g.bitcnt = 32#6 then some (seqFinish (bytesOfShift order g.sr) g)
  else if ps.length - 1 < g.cursor.toNat + 2 then some (seqFinish .rejected g)
  else
    match ps[g.cursor.toNat]?, ps[g.cursor.toNat + 1]? with
    | some space, some mark =>
      if space.level && !mark.level && classify space.duration == .short then
        some { g with
          sr     := shiftIn g.sr (classify mark.duration != .short)
          bitcnt := g.bitcnt + 1#6
          cursor := g.cursor + 2#8 }
      else some { g with cursor := g.cursor + 2#8 }
    | _, _ => none

/-- One step of the table of R210 on the call `DECODE ps`. `D_REPEAT` is never entered and has no row. -/
def seqStep (order : BitOrder) (ps : List Pulse) (g : NecRegs) : Option NecRegs :=
  match g.decState with
  | .idle =>
    if isRepeatCode ps then some (seqFinish .repeatCode g)
    else some { g with cursor := 0#8, decState := .leader }
  | .repeatCheck => none
  | .leader => seqScan ps (fun p => p.level && classify p.duration == .space) .mark g
  | .mark   => seqScan ps (fun p => !p.level && classify p.duration == .mark) .stop g
  | .stop   =>
    match ps.getLast? with
    | none   => none
    | some p =>
      if p.level && classify p.duration == .short then
        some { g with bitcnt := 0#6, sr := 0#32, decState := .bits }
      else some (seqFinish .rejected g)
  | .bits   => seqBits order ps g
  | .done   => some { g with decState := .idle }

/-- `k` steps of the sequential decoder. -/
def seqRun (order : BitOrder) (ps : List Pulse) : Nat → NecRegs → Option NecRegs
  | 0,     g => some g
  | k + 1, g =>
    match seqStep order ps g with
    | some g' => seqRun order ps k g'
    | none    => none

end Sys2Proof.Nec
end

