-- ==== Sys2Proof/Machine/Scheduler.lean ====
section
/-! DEFINITION. The reference scheduler and the reference arbitration (spec/60_exceptions.md R246, R266). Both belong to the
platform, not to the block: `step` admits every schedule (R265), and these select some of them (log 18). -/

namespace Sys2Proof.Machine

/-- The reference periodic scheduler: armed, its interval, `sched_next` (R266), and whether a tick has been raised and not been
served yet, which R246(iii) needs when an edge is raised in the same instant (log 34). -/
structure RefScheduler where
  armed      : Bool
  intervalMs : U32
  next       : U64
  raised     : Bool
  deriving DecidableEq, Repr

/-- Milliseconds of the interface as microseconds of the timebase (R107, R266). -/
def microsOfMillis (ms : U32) : U64 := 1000#64 * ms.setWidth 64

/-- `arm(d0, iv)` (R266). -/
def RefScheduler.arm (now : U64) (delayMs intervalMs : U32) : RefScheduler :=
  { armed := true, intervalMs := intervalMs, next := now + microsOfMillis delayMs, raised := false }

/-- `rearm(iv)`: the interval, and the phase too if `REARM_RESETS_PHASE` (R266, OPEN: an argument). A tick already raised stays
raised (R246(iii); log 34). -/
def RefScheduler.rearm (resetsPhase : Bool) (now : U64) (intervalMs : U32) (r : RefScheduler) : RefScheduler :=
  if resetsPhase then { r with intervalMs := intervalMs, next := now + microsOfMillis intervalMs }
  else { r with intervalMs := intervalMs }

/-- The stop that shutdown implies (R98, R264), and what a fault does to the tick (R244): nothing is raised any more. -/
def RefScheduler.stop (r : RefScheduler) : RefScheduler := { r with armed := false, raised := false }

/-- `now >= sched_next`, compared as elapsed time modulo `2^64`: the time since `sched_next` is in the lower half of the range
(DEDUCED, log 18). -/
def RefScheduler.due (now : U64) (r : RefScheduler) : Bool := r.armed && decide ((now - r.next).toNat < 2 ^ 63)

/-- A due tick is raised, and the next one is an interval later (R266). At most one stands raised (R290(b)). -/
def RefScheduler.raise (now : U64) (r : RefScheduler) : RefScheduler :=
  if r.due now && !r.raised then { r with next := r.next + microsOfMillis r.intervalMs, raised := true } else r

/-- The raised tick is served. -/
def RefScheduler.serve (r : RefScheduler) : RefScheduler := { r with raised := false }

/-- What the scheduler makes of one event of the block (R264). -/
def RefScheduler.observe (resetsPhase : Bool) (now : U64) (r : RefScheduler) : Event → RefScheduler
  | .schedArm d iv    => RefScheduler.arm now d iv
  | .schedRearm iv    => RefScheduler.rearm resetsPhase now iv r
  | .schedStop        => RefScheduler.stop r
  | .pulse _ _        => r
  | .flush _ _ _      => r
  | .lineSetMode _ _  => r
  | .lineOnEdge _ _   => r
  | .lineOffEdge      => r
  | .fault _          => RefScheduler.stop r

/-- The events a step has emitted, observed in order at one timestamp. -/
def RefScheduler.observeAll (resetsPhase : Bool) (now : U64) (r : RefScheduler) (es : List Event) : RefScheduler :=
  es.foldl (RefScheduler.observe resetsPhase now) r

/-- The reference arbiter (R246): sequences run whole, an edge raised in this instant goes first and a tick raised in the same
instant is served after it; only with neither pending does time pass. -/
def arbiterChoice (pendingEdge : Option Bool) (tickRaised : Bool) (dt : U64) : Instr :=
  match pendingEdge with
  | some lvl => .edge lvl
  | none     => if tickRaised then .tick else .adv dt

end Sys2Proof.Machine
end

