-- ==== Sys2Proof/Machine/RefPlatform.lean ====
section
/-! DEFINITION. The deterministic simulator of spec/60_exceptions.md R246 and R266: the block, the reference scheduler and the
reference arbiter together (log 18, log 34). -/

namespace Sys2Proof.Machine

/-- The block with its reference scheduler. -/
structure RefPlatform where
  block : State
  sched : RefScheduler
  deriving DecidableEq, Repr

/-- One operation of the block, its scheduler commands observed; a tick serves the one that was raised. -/
def RefPlatform.run (resetsPhase : Bool) (i : Instr) (p : RefPlatform) : Option RefPlatform :=
  match exec i p.block with
  | .next s' =>
    let served := if i = .tick then p.sched.serve else p.sched
    some { block := s', sched := served.observeAll resetsPhase s'.now (s'.out.drop p.block.out.length) }
  | .fault _   => none
  | .refused _ => none

/-- One step under the reference arbitration: the line's pending transition, if any, and how far time moves otherwise are the
environment's (R246). A due tick is raised at the start of the step, before an edge of the same instant can rearm the scheduler, and
so it is served after that edge and not dropped, whatever `REARM_RESETS_PHASE` (R246(iii); the order is the model's reading of
R266, log 34). -/
def RefPlatform.step (resetsPhase : Bool) (pendingEdge : Option Bool) (dt : U64) (p : RefPlatform) : Option RefPlatform :=
  let p' := { p with sched := p.sched.raise p.block.now }
  p'.run resetsPhase (arbiterChoice pendingEdge p'.sched.raised dt)

end Sys2Proof.Machine
end

