-- ==== Sys2Proof/Machine/Trace.lean ====
section
/-! DEFINITION. The trace syntax and the pseudo-operations (spec/30_encoding.md R108 to R110): a line of text to the operations it
stands for, and the hexadecimal form of words and records (log 24). -/

namespace Sys2Proof.Trace

/-! Pseudo-operations (R109). -/

/-- `PULSE lvl d` expands to `ADV d; EDGE lvl`. -/
def pulseOps (lvl : Bool) (d : U64) : List Instr := [.adv d, .edge lvl]

/-- `IDLE d` expands to `ADV d; TICK`. -/
def idleOps (d : U64) : List Instr := [.adv d, .tick]

/-- `EDGE lvl` as the five micro-steps. -/
def edgeMicroSteps (lvl : Bool) : List Instr := [.eGuard lvl, .eAcq, .eBody, .eRel, .eUnguard]

/-- `TICK` as the four micro-steps, when the guard is clear. -/
def tickMicroSteps : List Instr := [.tCheck, .tAcq, .tBody, .tRel]

/-! Tokens. -/

/-- The tokens of a trace line. -/
inductive Token where
  | word (cs : List Char)
  | lbrack | rbrack | lpar | rpar | comma
  deriving DecidableEq, Repr

/-- The word collected so far (in reverse), if any. -/
def wordToken (acc : List Char) : List Token := if acc.isEmpty then [] else [.word acc.reverse]

/-- Tokens of a line: blanks separate, `;` starts a comment (R108). -/
def tokens : List Char → List Char → List Token
  | [],      acc => wordToken acc
  | c :: cs, acc =>
    if c = ';' then wordToken acc
    else if c = ' ' ∨ c = '\t' then wordToken acc ++ tokens cs []
    else if c = '[' then wordToken acc ++ .lbrack :: tokens cs []
    else if c = ']' then wordToken acc ++ .rbrack :: tokens cs []
    else if c = '(' then wordToken acc ++ .lpar :: tokens cs []
    else if c = ')' then wordToken acc ++ .rpar :: tokens cs []
    else if c = ',' then wordToken acc ++ .comma :: tokens cs []
    else tokens cs (c :: acc)

/-! Numbers: decimal, or hexadecimal with `0x` (R108). -/

/-- The sixteen digits as the test vectors write them (R108), each at the place of its value. -/
def digitRow : List Char := "0123456789ABCDEF".toList

/-- The value of a digit is its place in the row; the small letters are read too (log 24). -/
def digitValue (c : Char) : Option Nat := digitRow.idxOf? c.toUpper

/-- A run of digits in a base, most significant first. -/
def digits (base : Nat) : Nat → List Char → Option Nat
  | n, []      => some n
  | n, c :: cs =>
    match digitValue c with
    | some d => if d < base then digits base (base * n + d) cs else none
    | none   => none

/-- A number token. -/
def number (cs : List Char) : Option Nat :=
  match cs with
  | []                    => none
  | ['0', 'x']            => none
  | '0' :: 'x' :: ds      => digits 16 0 ds
  | ds                    => digits 10 0 ds

/-- A bool token: `1` or `0`. -/
def boolToken (cs : List Char) : Option Bool :=
  match number cs with
  | some 0 => some false
  | some 1 => some true
  | _      => none

/-- A `u64` token. -/
def u64Token (cs : List Char) : Option U64 :=
  match number cs with
  | some n => if n < 2 ^ 64 then some (BitVec.ofNat 64 n) else none
  | none   => none

/-- A byte token. -/
def byteToken (cs : List Char) : Option Byte :=
  match number cs with
  | some n => if n < 256 then some (BitVec.ofNat 8 n) else none
  | none   => none

/-! Lines. -/

/-- The pulses of a list, after its opening bracket: `(level,duration)` each (R108). -/
def pulseList : List Token → Option (List Pulse)
  | [.rbrack] => some []
  | .lpar :: .word l :: .comma :: .word d :: .rpar :: rest =>
    match boolToken l, u64Token d, pulseList rest with
    | some level, some duration, some ps => some (⟨level, duration⟩ :: ps)
    | _, _, _ => none
  | _ => none

/-- The list operand of `DECODE` and `ISREPEAT`: a written list, or `NECFRAME b0 b1 b2 b3` (R108, R109). -/
def listOperand (order : BitOrder) (ts : List Token) : Option (List Pulse) :=
  match ts with
  | .lbrack :: rest => pulseList rest
  | [.word w, .word b0, .word b1, .word b2, .word b3] =>
    if w = "NECFRAME".toList then
      match byteToken b0, byteToken b1, byteToken b2, byteToken b3 with
      | some c0, some c1, some c2, some c3 => some (Nec.necFrameDefault order c0 c1 c2 c3)
      | _, _, _, _ => none
    else none
  | _ => none

/-- A decoder operand the port can carry (R63). -/
def portList (order : BitOrder) (ts : List Token) : Option (List Pulse) :=
  match listOperand order ts with
  | some ps => if ps.length ≤ maxPortPulses then some ps else none
  | none    => none

/-- An operation with no operand. -/
def bare (i : Instr) (args : List Token) : Option (List Instr) := if args.isEmpty then some [i] else none

/-- An operation with a bool operand. -/
def withBool (f : Bool → Instr) (args : List Token) : Option (List Instr) :=
  match args with
  | [.word b] => (boolToken b).map (fun v => [f v])
  | _         => none

/-- One mnemonic with its operands (R103, R108, R109). -/
def operation (order : BitOrder) (name : List Char) (args : List Token) : Option (List Instr) :=
  if name = "START".toList then (if args.isEmpty then some [.start true] else withBool .start args)
  else if name = "STOP".toList then bare .stop args
  else if name = "ADV".toList then
    match args with
    | [.word d] => (u64Token d).map (fun dt => [.adv dt])
    | _         => none
  else if name = "EDGE".toList then withBool .edge args
  else if name = "TICK".toList then bare .tick args
  else if name = "E_GUARD".toList then withBool .eGuard args
  else if name = "E_ACQ".toList then bare .eAcq args
  else if name = "E_BODY".toList then bare .eBody args
  else if name = "E_REL".toList then bare .eRel args
  else if name = "E_UNGUARD".toList then bare .eUnguard args
  else if name = "T_CHECK".toList then bare .tCheck args
  else if name = "T_ACQ".toList then bare .tAcq args
  else if name = "T_BODY".toList then bare .tBody args
  else if name = "T_REL".toList then bare .tRel args
  else if name = "DECODE".toList then (portList order args).map (fun ps => [.decode ps])
  else if name = "ISREPEAT".toList then (portList order args).map (fun ps => [.isRepeat ps])
  else if name = "PULSE".toList then
    match args with
    | [.word l, .word d] =>
      match boolToken l, u64Token d with
      | some lvl, some dt => some (pulseOps lvl dt)
      | _, _ => none
    | _ => none
  else if name = "IDLE".toList then
    match args with
    | [.word d] => (u64Token d).map idleOps
    | _         => none
  else none

/-- The operations of one trace line; a line of blanks or comment holds none (R108). -/
def line (order : BitOrder) (text : String) : Option (List Instr) :=
  match tokens text.toList [] with
  | []              => some []
  | .word w :: args => operation order w args
  | _               => none

/-! The hexadecimal form (R108). -/

/-- One hexadecimal digit. -/
def hexDigit (n : Nat) : Char := digitRow.getD n '?'

/-- `k` hexadecimal digits of a number, most significant first. -/
def hexDigits : Nat → Nat → List Char
  | 0,     _ => []
  | k + 1, n => hexDigits k (n / 16) ++ [hexDigit (n % 16)]

/-- An event word as `oo:pppppppppppppppp`. -/
def wordText (ew : EventWord) : List Char :=
  hexDigits 2 (opcodeByte ew).toNat ++ ':' :: hexDigits 16 (operandOf ew).toNat

/-- A Pulse record as `l_dddddddddddddddd`. -/
def recordText (r : PulseRecord) : List Char :=
  hexDigit ((pulseOfRecord r).level.toNat) :: '_' :: hexDigits 16 (pulseOfRecord r).duration.toNat

/-- The words of an operation in the form of the test vectors. -/
def encodingText (i : Instr) : List (List Char) :=
  (encode i).map (fun w => match w with | .event ew => wordText ew | .record r => recordText r)

end Sys2Proof.Trace
end

