-- ==== Sys2Proof/Safety.lean ====
section
/-! DEFINITION. The terms claims are made in: runs of operations, the invariant of spec/10_state.md R31 and R49, the shape of the
output history, quiescence, the data view of spec/40_capture_engine.md R153. -/

namespace Sys2Proof.Machine

/-- The step does not exist in the state (R18): no next state is answered. -/
def NoStep (o : Result) : Prop := ∀ t, o ≠ .next t

/-- Operations run one after another on a state, stopping at the first stop. -/
def runInstrs : List Instr → State → Result
  | [],      s => .next s
  | i :: is, s => andThen (exec i s) (runInstrs is)

/-- The control invariants of R49 and the buffer invariants of R31, with what holds in `STOPPED` and `FAULT` (R132, R241), the
legality of the constants (R10), the range of the decoder registers (R45), and that a running clock shows its exact age modulo
`2^64` (R27, R161(a)). -/
structure State.Inv (s : State) : Prop where
  legal     : s.params.Legal
  lockEdge  : s.lock = .edge ↔ (s.edgePhase = .locked ∨ s.edgePhase = .done)
  lockTick  : s.lock = .tick ↔ (s.tickPhase = .locked ∨ s.tickPhase = .done)
  guardSet  : s.guard = true ↔ s.edgePhase ≠ .idle
  inReset   : s.runState = .reset → s.edgePhase = .idle ∧ s.tickPhase = .idle ∧ s.buf = [] ∧ s.out = []
  inRunning : s.runState = .running →
    s.pclk.running = true ∧ s.lineConfigured = true ∧ s.edgeCbRegistered = true ∧ s.schedArmed = true
  inStopped : s.runState = .stopped →
    s.edgePhase = .idle ∧ s.tickPhase = .idle ∧ s.edgeCbRegistered = false ∧ s.schedArmed = false
  inFault   : s.runState = .fault ↔ s.faultCode ≠ .none
  bufBound  : s.count < capacity s.params
  bufRange  : ∀ p ∈ s.buf, s.params.minElapsed ≤ p.duration ∧ p.duration < s.params.maxElapsed
  necIdle   : s.nec.decState = .idle
  necCount  : s.nec.bitcnt.toNat ≤ 32
  pclkTime  : s.pclk.running = true → elapsed s.now s.pclk = BitVec.ofNat 64 s.pclkAge
  iclkTime  : s.iclk.running = true → elapsed s.now s.iclk = BitVec.ofNat 64 s.iclkAge

/-- No sequence in service (R246(ii)). -/
structure State.Quiescent (s : State) : Prop where
  edgeIdle : s.edgePhase = .idle
  tickIdle : s.tickPhase = .idle
  lockFree : s.lock = .free
  guardOff : s.guard = false

/-! The output history. -/

/-- The accepted pulses reported since the last flush, given those already open (R150): a gap pulse reported under
`REPORT_GAP_PULSE` is no part of a train (R139). -/
def openTrain (p : Params) : List Pulse → List Event → List Pulse
  | open', []                      => open'
  | open', .pulse level d :: es    => openTrain p (if Accepted p d then open' ++ [⟨level, d⟩] else open') es
  | _,     .flush _ _ _ :: es      => openTrain p [] es
  | open', _ :: es                 => openTrain p open' es

/-- Every flush of the history carries exactly the accepted pulses since the one before it, is not empty, carries their exact
sum, and is an Overflow flush exactly when it is full (R69, R140, R146, R150). -/
def HistoryOk (p : Params) : List Pulse → List Event → Prop
  | _,     []                      => True
  | open', .pulse level d :: es    => HistoryOk p (if Accepted p d then open' ++ [⟨level, d⟩] else open') es
  | open', .flush ps r total :: es =>
    ps = open' ∧ ps ≠ [] ∧ total = trainDuration ps ∧ (r = .overflow ↔ ps.length = capacity p) ∧ HistoryOk p [] es
  | open', _ :: es                 => HistoryOk p open' es

/-- The flushes of a history, in order. -/
def flushesOf : List Event → List Event
  | []                       => []
  | .flush ps r total :: es  => .flush ps r total :: flushesOf es
  | _ :: es                  => flushesOf es

/-! The data view (R153). -/

/-- The steps that change the data state or the history: `START`, `STOP`, `ADV`, and the two bodies. -/
inductive DataOp where
  | start (modeOk : Bool)
  | stop
  | adv (dt : U64)
  | edgeBody (lvl : Bool)
  | tickBody
  deriving DecidableEq, Repr

/-- A state with everything erased that only sequences the block or belongs to the decoder or the port: guard, lock, phases,
line. -/
def dataView (s : State) : State :=
  { s with
    line := false, guard := false, lock := .free, edgePhase := .idle, tickPhase := .idle
    nec := State.reset.nec, results := [], draws := 0, port := [] }

/-- A data step on a data view: no phase, lock or guard takes part. -/
def dataStep : DataOp → State → Result
  | .start modeOk, s => .next (dataView (startEffect modeOk s))
  | .stop,         s => .next (dataView (stopEffect s))
  | .adv dt,       s => .next (dataView (advance dt s))
  | .edgeBody lvl, s => andThen (edgeBody { s with line := lvl }) (fun s' => .next (dataView s'))
  | .tickBody,     s => andThen (tickBody s) (fun s' => .next (dataView s'))

/-- Data steps one after another. -/
def runData : List DataOp → State → Result
  | [],        s => .next s
  | op :: ops, s => andThen (dataStep op s) (runData ops)

/-- The data steps an operation makes in a state: none for the steps that only sequence, and none for a dropped tick (R153). -/
def dataOpsOf (i : Instr) (s : State) : List DataOp :=
  match i with
  | .start modeOk => [.start modeOk]
  | .stop         => [.stop]
  | .adv dt       => [.adv dt]
  | .edge lvl     => [.edgeBody lvl]
  | .tick         => if s.guard then [] else [.tickBody]
  | .eGuard _     => []
  | .eAcq         => []
  | .eBody        => [.edgeBody s.line]
  | .eRel         => []
  | .eUnguard     => []
  | .tCheck       => []
  | .tAcq         => []
  | .tBody        => [.tickBody]
  | .tRel         => []
  | .decode _     => []
  | .isRepeat _   => []

/-- The data steps of a whole run. -/
def dataTrace : List Instr → State → List DataOp
  | [],      _ => []
  | i :: is, s =>
    match exec i s with
    | .next t    => dataOpsOf i s ++ dataTrace is t
    | .fault _   => []
    | .refused _ => []

/-! Reset values that nothing reads (R281). -/

/-- Two states that differ at most in what R281 leaves unspecified and nothing reads before writing it: a clock's start while the
clock is not running, the scheduler's interval before `START`, the decoder's registers. -/
structure SameButUnread (s t : State) : Prop where
  params     : s.params = t.params
  now        : s.now = t.now
  line       : s.line = t.line
  runState   : s.runState = t.runState
  faultCode  : s.faultCode = t.faultCode
  pclkRun    : s.pclk.running = t.pclk.running
  pclkStart  : s.pclk.running = true → s.pclk.start = t.pclk.start
  iclkRun    : s.iclk.running = t.iclk.running
  iclkStart  : s.iclk.running = true → s.iclk.start = t.iclk.start
  buf        : s.buf = t.buf
  guardEq    : s.guard = t.guard
  lock       : s.lock = t.lock
  edgePhase  : s.edgePhase = t.edgePhase
  tickPhase  : s.tickPhase = t.tickPhase
  armed      : s.schedArmed = t.schedArmed
  configured : s.lineConfigured = t.lineConfigured
  registered : s.edgeCbRegistered = t.edgeCbRegistered
  out        : s.out = t.out
  pclkAge    : s.pclkAge = t.pclkAge
  iclkAge    : s.iclkAge = t.iclkAge
  results    : s.results = t.results
  draws      : s.draws = t.draws
  port       : s.port = t.port

end Sys2Proof.Machine
end

