-- ==== Sys2Proof/Certificates/Slice0/Obligations.lean ====
section
/-! DEFINITION. The statements for the provers, from the numbered rules of spec/. Each docstring names the rule or section it
formalises. -/

open Sys2Proof Sys2Proof.Machine

/-! Reset. -/

/-- R48, both columns of its table: power-on for any value of what it leaves unspecified, and the state after a successful
`START`. -/
def Obligations.PowerOnAndStartedValues : Prop :=
  ∀ (p : Params) (now : U64) (line : Bool) (a b : U64) (c : U32) (d : Byte) (e : Fin 33) (f : BitVec 32) (g : DecodeResult),
    let s := State.powerOn p now line a b c d e f g
    (s.runState = .reset ∧ s.faultCode = .none ∧ s.pclk.running = false ∧ s.iclk.running = false ∧ s.count = 0 ∧ s.buf = [] ∧
      s.guard = false ∧ s.lock = .free ∧ s.edgePhase = .idle ∧ s.tickPhase = .idle ∧ s.schedArmed = false ∧
      s.lineConfigured = false ∧ s.edgeCbRegistered = false ∧ s.out = [] ∧ s.nec.decState = .idle) ∧
    ∃ t, exec (.start true) s = .next t ∧
      t.now = s.now ∧ t.line = s.line ∧ t.runState = .running ∧ t.faultCode = .none ∧
      t.pclk = { running := true, start := s.now } ∧ t.iclk = { running := true, start := s.now } ∧ t.count = 0 ∧ t.buf = [] ∧
      t.guard = false ∧ t.lock = .free ∧ t.edgePhase = s.edgePhase ∧ t.tickPhase = s.tickPhase ∧ t.schedArmed = true ∧
      t.schedIntervalMs = p.idleCheckIntervalMs ∧ t.lineConfigured = true ∧ t.edgeCbRegistered = true ∧
      t.out = [.lineSetMode true true, .lineOnEdge true true, .schedArm 0#32 p.idleCheckIntervalMs] ∧ t.nec = s.nec

/-- The invariants hold in every power-on state of a legal configuration, and its history is well formed (10_state.md sections 4, 9
and 10). -/
def Obligations.PowerOnMeetsTheInvariants : Prop :=
  ∀ (p : Params) (now : U64) (line : Bool) (a b : U64) (c : U32) (d : Byte) (e : Fin 33) (f : BitVec 32) (g : DecodeResult),
    p.Legal →
    let s := State.powerOn p now line a b c d e f g
    s.Inv ∧ s.Quiescent ∧ HistoryOk p [] s.out ∧ openTrain p [] s.out = s.buf

/-- R281's conclusion (70_reset_and_hazards.md section 1): whatever the unspecified reset values other than the two inputs `now` and
`line`, every run ends the same way and its states agree in all that is ever read. -/
def Obligations.UnspecifiedResetValuesAreNeverRead : Prop :=
  ∀ (p : Params) (now : U64) (line : Bool) (a b a' b' : U64) (c c' : U32) (d d' : Byte) (e e' : Fin 33) (f f' : BitVec 32)
    (g g' : DecodeResult) (is : List Instr), p.Legal →
    match runInstrs is (State.powerOn p now line a b c d e f g), runInstrs is (State.powerOn p now line a' b' c' d' e' f' g') with
    | .next t,    .next t'    => SameButUnread t t'
    | .fault r,   .fault r'   => r = r'
    | .refused r, .refused r' => r = r'
    | _,          _           => False

/-! Steps and encodings. -/

/-- The next step takes the operation at the port and runs it (the model's own port; 30_encoding.md section 3). -/
def Obligations.StepRunsTheDecodedOperation : Prop :=
  ∀ (s : State) (i : Instr) (rest : List PortWord), s.params.Legal → decode s.port = .ok (i, rest) →
    step s = exec i { s with port := rest }

/-- R105: a reserved opcode, an output kind, or a nonzero reserved operand bit selects no operation, and the step refuses it. -/
def Obligations.IllegalWordsSelectNoOperation : Prop :=
  ∀ (s : State) (ew : EventWord) (rest : List PortWord), s.params.Legal → s.port = .event ew :: rest →
    (let op := (opcodeByte ew).toNat
     (op = 0x00 ∨ (0x06 ≤ op ∧ op ≤ 0x0F) ∨ (0x15 ≤ op ∧ op ≤ 0x17) ∨ (0x1C ≤ op ∧ op ≤ 0x1F) ∨ (0x22 ≤ op ∧ op ≤ 0x7F) ∨
       0x80 ≤ op) ∨
     ∃ r ∈ opcodeTable, opcodeByte ew = opcodeByte r.pattern ∧ ew &&& r.mask ≠ r.pattern) →
    ∃ e, step s = .refused (.illegalEncoding e)

/-- Decoding an encoded well-formed operation gives it back, whatever follows it (30_encoding.md sections 1, 3 and 4). -/
def Obligations.DecodeOfEncodeIsTheOperation : Prop :=
  ∀ (i : Instr) (rest : List PortWord), i.wellFormed = true → decode (encode i ++ rest) = .ok (i, rest)

/-- What decodes is well formed and is exactly its own encoding: no bit of the words is dropped (30_encoding.md sections 1, 3 and
4). -/
def Obligations.EncodeOfDecodeIsTheWords : Prop :=
  ∀ (ws : List PortWord) (i : Instr) (rest : List PortWord), decode ws = .ok (i, rest) →
    i.wellFormed = true ∧ ws = encode i ++ rest

/-- R103's `match` and `mask`: the decoder accepts exactly the words some row fits, and no word fits two rows. -/
def Obligations.DecoderAcceptsExactlyTheTable : Prop :=
  ∀ ew : EventWord,
    ((∃ h, decodeHead ew = .ok h) ↔ ∃ r ∈ opcodeTable, r.fits ew = true) ∧
    (∀ r ∈ opcodeTable, ∀ r' ∈ opcodeTable, r.fits ew = true → r'.fits ew = true → r = r')

/-- The event word of a well-formed operation fits the row of its own mnemonic (30_encoding.md section 3). -/
def Obligations.EncodedWordFitsItsRow : Prop :=
  ∀ i : Instr, i.wellFormed = true → ∃ r ∈ opcodeTable, r.mnemonic = i.mnemonic ∧ r.fits i.eventWord = true

/-- Words of the test vectors V-X10 to V-X15 decode to what they stand for (95_test_vectors.md section 2.9). -/
def Obligations.VectorWordsDecode : Prop :=
  decode [.event 0x010000000000000001#72] = .ok (.start true, []) ∧
  decode [.event 0x020000000000000000#72] = .ok (.stop, []) ∧
  decode [.event 0x030000000000002328#72] = .ok (.adv 9000#64, []) ∧
  decode [.event 0x040000000000000001#72] = .ok (.edge true, []) ∧
  decode [.event 0x120000000000000000#72] = .ok (.eBody, []) ∧
  decode [.event 0x180000000000000000#72] = .ok (.tCheck, []) ∧
  decode [.event 0x200000000000000004#72, .record 0x10000000000002328#65, .record 0x000000000000009C4#65,
    .record 0x10000000000000230#65, .record 0x00000000000000230#65] =
    .ok (.decode [⟨true, 9000#64⟩, ⟨false, 2500#64⟩, ⟨true, 560#64⟩, ⟨false, 560#64⟩], []) ∧
  decode [.event 0x210000000000000000#72] = .ok (.isRepeat [], [])

/-- R91, R93, R96, and the header of a flush: where the fields of a Pulse record, a decode result, a pulse event and a flush header
stand. -/
def Obligations.RecordAndEventLayouts : Prop :=
  (∀ p : Pulse, (recordOfPulse p).getLsbD 64 = p.level ∧ (recordOfPulse p).extractLsb' 0 64 = p.duration) ∧
  (decodeResultBits .rejected = 0x000000000#34 ∧ decodeResultBits .repeatCode = 0x100000000#34 ∧
   ∀ b0 b1 b2 b3 : Byte,
     (decodeResultBits (.bytes b0 b1 b2 b3)).extractLsb' 32 2 = 2#2 ∧
     (decodeResultBits (.bytes b0 b1 b2 b3)).extractLsb' 24 8 = b0 ∧
     (decodeResultBits (.bytes b0 b1 b2 b3)).extractLsb' 16 8 = b1 ∧
     (decodeResultBits (.bytes b0 b1 b2 b3)).extractLsb' 8 8 = b2 ∧
     (decodeResultBits (.bytes b0 b1 b2 b3)).extractLsb' 0 8 = b3) ∧
  (∀ b, CallResult.wire (.isRepeat b) = .bit (BitVec.ofBool b)) ∧
  (∀ (l : Bool) (d : U64), Event.wire (.pulse l d) = some (.pulse (pulseEventBits l d)) ∧
     (pulseEventBits l d).extractLsb' 65 8 = 0x81#8 ∧
     (pulseEventBits l d).getLsbD 64 = l ∧ (pulseEventBits l d).extractLsb' 0 64 = d) ∧
  (∀ (ps : List Pulse) (r : FlushReason) (total : Nat), ps.length ≤ 255 → total < 2 ^ 64 →
     ∃ fh, Event.wire (.flush ps r total) = some (.flush fh (ps.map recordOfPulse)) ∧
       fh.extractLsb' 73 8 = 0x82#8 ∧ fh.extractLsb' 72 1 = r.code ∧ (fh.extractLsb' 64 8).toNat = ps.length ∧
       (fh.extractLsb' 0 64).toNat = total)

/-- R98, R100, and the line commands: the words of the commands to the collaborators and of the fault event, as in the vectors V-X7
to V-X9. -/
def Obligations.CommandWordLayouts : Prop :=
  (∀ d iv : U32, ∃ w, Event.wire (.schedArm d iv) = some (.word w) ∧ w.extractLsb' 64 8 = 0x83#8 ∧
     w.extractLsb' 32 32 = d ∧ w.extractLsb' 0 32 = iv) ∧
  (∀ iv : U32, ∃ w, Event.wire (.schedRearm iv) = some (.word w) ∧ w.extractLsb' 64 8 = 0x84#8 ∧
     w.extractLsb' 32 32 = 0#32 ∧ w.extractLsb' 0 32 = iv) ∧
  Event.wire .schedStop = some (.word 0x850000000000000000#72) ∧
  Event.wire (.lineSetMode true true) = some (.word 0x860000000000000003#72) ∧
  Event.wire (.lineOnEdge true true) = some (.word 0x870000000000000003#72) ∧
  Event.wire .lineOffEdge = some (.word 0x880000000000000000#72) ∧
  Event.wire (.fault .doubleStart) = some (.word 0x8F0000000000000001#72) ∧
  Event.wire (.fault .lineMode) = some (.word 0x8F0000000000000002#72)

/-- The last sentence of R104: a flush event's count and records, copied behind a decoder word, decode to the call on the flushed
train (30_encoding.md sections 2 and 3). -/
def Obligations.FlushEventReplaysToTheDecoder : Prop :=
  ∀ (ps : List Pulse) (r : FlushReason) (total : Nat) (fh : BitVec 81) (records : List PulseRecord) (rest : List PortWord),
    Event.wire (.flush ps r total) = some (.flush fh records) →
    decode (.event (0x20#8 ++ (0#56 ++ fh.extractLsb' 64 8)) :: (records.map PortWord.record ++ rest)) = .ok (.decode ps, rest) ∧
    decode (.event (0x21#8 ++ (0#56 ++ fh.extractLsb' 64 8)) :: (records.map PortWord.record ++ rest)) = .ok (.isRepeat ps, rest)

/-- Trace lines of R108 and R109 assemble to the operations, words and expansions the spec gives for them (30_encoding.md section
5). The last clause, that the reader refuses an operand where the spec gives none, is the model's choice (DESIGN CHOICE, log 24). -/
def Obligations.TraceLinesAssemble : Prop :=
  Trace.line .msbFirst "ADV 9000" = some [.adv 9000#64] ∧
  Trace.encodingText (.adv 9000#64) = ["03:0000000000002328".toList] ∧
  Trace.line .msbFirst "EDGE 1" = some [.edge true] ∧
  Trace.encodingText (.edge true) = ["04:0000000000000001".toList] ∧
  Trace.line .msbFirst "TICK" = some [.tick] ∧
  Trace.encodingText .tick = ["05:0000000000000000".toList] ∧
  Trace.line .msbFirst "START ; mode accepted" = some [.start true] ∧
  Trace.line .msbFirst "PULSE 1 9000" = some [.adv 9000#64, .edge true] ∧
  Trace.line .msbFirst "IDLE 0x1388" = some [.adv 5000#64, .tick] ∧
  Trace.line .msbFirst "DECODE [(1,9000) (0,4500)]" = some [.decode [⟨true, 9000#64⟩, ⟨false, 4500#64⟩]] ∧
  Trace.line .msbFirst "E_ACQ 1" = none

/-! START and faults. -/

/-- R131: the whole next state of `START` in each branch of its pseudocode, in any phase of a sequence; in `FAULT` no such step. The
two clock ages are the model's own (log 33). -/
def Obligations.StartStep : Prop :=
  (∀ s : State, s.runState = .reset →
    exec (.start true) s = .next { s with
      lineConfigured := true, pclk := { running := true, start := s.now }, iclk := { running := true, start := s.now },
      pclkAge := 0, iclkAge := 0, edgeCbRegistered := true, schedArmed := true, schedIntervalMs := s.params.idleCheckIntervalMs, runState := .running,
      out := s.out ++ [.lineSetMode true true, .lineOnEdge true true, .schedArm 0#32 s.params.idleCheckIntervalMs] }) ∧
  (∀ s : State, s.runState = .reset →
    exec (.start false) s = .next { s with
      runState := .fault, faultCode := .lineMode, out := s.out ++ [.lineSetMode true true, .fault .lineMode] }) ∧
  (∀ (s : State) (m : Bool), (s.runState = .running ∨ s.runState = .stopped) →
    exec (.start m) s = .next { s with runState := .fault, faultCode := .doubleStart, out := s.out ++ [.fault .doubleStart] }) ∧
  (∀ (s : State) (i : Instr), s.runState = .fault → (∀ dt, i ≠ .adv dt) → NoStep (exec i s)) ∧
  (∀ m, (Instr.start m).eventWord = (if m then 0x010000000000000001#72 else 0x010000000000000000#72))

/-- R242, R243: the two fault causes with their whole effect, `DOUBLE_START` first whatever the line would answer; and no operation
but `START` changes the fault code. -/
def Obligations.FaultCausesAreComplete : Prop :=
  (∀ (s : State) (m : Bool), (s.runState = .running ∨ s.runState = .stopped) →
    exec (.start m) s = .next { s with runState := .fault, faultCode := .doubleStart, out := s.out ++ [.fault .doubleStart] }) ∧
  (∀ s : State, s.runState = .reset →
    exec (.start false) s = .next { s with
      runState := .fault, faultCode := .lineMode, out := s.out ++ [.lineSetMode true true, .fault .lineMode] }) ∧
  (∀ (i : Instr) (s t : State), exec i s = .next t →
    (t.runState = .fault ∧ s.runState ≠ .fault) ∨ t.faultCode ≠ s.faultCode ∨ (∃ c, t.out = s.out ++ [.fault c]) →
    ∃ m, i = .start m ∧
      ((t.faultCode = .doubleStart ∧ (s.runState = .running ∨ s.runState = .stopped)) ∨
       (t.faultCode = .lineMode ∧ m = false ∧ s.runState = .reset)))

/-- R241: what raising a fault does, that `START` raises it, and that it is sticky: in `FAULT` only `ADV` has a step,
for every other operation, the decoder calls included (U13; log 9), there is none, and no operation rewrites the code of a fault or
leaves the state. The clock ages that `ADV` moves are the model's own fields (log 33). -/
def Obligations.FaultIsSticky : Prop :=
  (∀ (c : FaultCode) (s : State), raiseFault c s = { s with runState := .fault, faultCode := c, out := s.out ++ [.fault c] }) ∧
  (∀ (s : State) (m : Bool), (s.runState = .running ∨ s.runState = .stopped) →
    exec (.start m) s = .next (raiseFault .doubleStart s)) ∧
  (∀ s : State, s.runState = .reset →
    exec (.start false) s = .next (raiseFault .lineMode { s with out := s.out ++ [.lineSetMode true true] })) ∧
  (∀ (s : State) (dt : U64), s.runState = .fault → ∃ t, exec (.adv dt) s = .next t ∧
    t = { s with now := s.now + dt, pclkAge := t.pclkAge, iclkAge := t.iclkAge }) ∧
  (∀ (i : Instr) (s : State), s.runState = .fault → (∀ dt, i ≠ .adv dt) → NoStep (exec i s)) ∧
  (∀ (i : Instr) (s t : State), s.runState = .fault → exec i s = .next t → t.runState = .fault ∧ t.faultCode = s.faultCode) ∧
  (∀ (i : Instr) (s t : State), s.Inv → s.faultCode ≠ .none → exec i s = .next t → t.faultCode = s.faultCode)

/-- R250: the run-state transitions, complete. -/
def Obligations.RunStateTransitions : Prop :=
  (∀ s : State, s.runState = .reset → ∃ t, exec (.start true) s = .next t ∧ t.runState = .running) ∧
  (∀ s : State, s.runState = .reset →
    ∃ t, exec (.start false) s = .next t ∧ t.runState = .fault ∧ t.faultCode = .lineMode) ∧
  (∀ (s : State) (m : Bool), s.runState = .running →
    ∃ t, exec (.start m) s = .next t ∧ t.runState = .fault ∧ t.faultCode = .doubleStart) ∧
  (∀ s : State, s.runState = .running → s.edgePhase = .idle → s.tickPhase = .idle →
    ∃ t, exec .stop s = .next t ∧ t.runState = .stopped) ∧
  (∀ (s : State) (m : Bool), s.runState = .stopped →
    ∃ t, exec (.start m) s = .next t ∧ t.runState = .fault ∧ t.faultCode = .doubleStart) ∧
  (∀ (i : Instr) (s t : State), s.runState = .fault → exec i s = .next t → t.runState = .fault) ∧
  (∀ (p : Params) (now : U64) (line : Bool) (a b : U64) (c : U32) (d : Byte) (e : Fin 33) (f : BitVec 32) (g : DecodeResult),
    (State.powerOn p now line a b c d e f g).runState = .reset) ∧
  (∀ (i : Instr) (s t : State), (∀ m, i ≠ .start m) → i ≠ .stop → exec i s = .next t → t.runState = s.runState)

/-- Which operations exist outside `RUNNING` (40_capture_engine.md section 6): in `FAULT` only `ADV`. That the decoder calls exist in
`RESET` and `STOPPED` is the model's reading of 41_nec_decoder.md sections 2 and 3 (DEDUCED, log 9). -/
def Obligations.OperationsOutsideRunning : Prop :=
  ∀ (i : Instr) (s t : State), s.Inv → s.runState ≠ .running → exec i s = .next t →
    (∃ dt, i = .adv dt) ∨ (s.runState ≠ .fault ∧ ((∃ ps, i = .decode ps) ∨ ∃ ps, i = .isRepeat ps)) ∨
    (∃ m, i = .start m ∧ (s.runState = .reset ∨ (s.runState = .stopped ∧ t.runState = .fault)))

/-! STOP and ADV. -/

/-- R132: the whole next state of `STOP`, when it exists, and what exists after it. -/
def Obligations.StopCompletesBetweenSequences : Prop :=
  (∀ s : State, s.runState = .running → s.edgePhase = .idle → s.tickPhase = .idle →
    let t := { s with edgeCbRegistered := false, schedArmed := false, runState := .stopped,
                      out := s.out ++ [.lineOffEdge, .schedStop] }
    exec .stop s = .next t ∧
    (∀ l, NoStep (exec (.eGuard l) t)) ∧ (∀ l, NoStep (exec (.edge l) t)) ∧ NoStep (exec .tCheck t) ∧ NoStep (exec .tick t) ∧
    (∀ dt, ∃ u, exec (.adv dt) t = .next u) ∧
    (∀ m, ∃ u, exec (.start m) t = .next u ∧ u.runState = .fault)) ∧
  (∀ s : State, ¬ (s.runState = .running ∧ s.edgePhase = .idle ∧ s.tickPhase = .idle) → NoStep (exec .stop s)) ∧
  Instr.eventWord .stop = 0x020000000000000000#72

/-- R148: pulses in the buffer when `STOP` executes are in no flush, then or later, and stay where they are; and no later step reads
the buffer or the clocks, since a run with others in their place ends the same way and differs in them alone. -/
def Obligations.BufferedPulsesDieWithStop : Prop :=
  ∀ (s s1 : State) (is : List Instr), s.Inv → exec .stop s = .next s1 →
    (∀ t, runInstrs is s1 = .next t → flushesOf t.out = flushesOf s.out ∧ t.buf = s.buf) ∧
    (∀ (b : List Pulse) (c c' : Clock),
      runInstrs is { s1 with buf := b, pclk := c, iclk := c' } =
        match runInstrs is s1 with
        | .next t    => .next { t with buf := b, pclk := c, iclk := c' }
        | .fault r   => .fault r
        | .refused r => .refused r)

/-- R160: `ADV` completes in every state; nothing changes at `dt = 0`; two advances add modulo `2^64`; the wrap is absorbed by
`elapsed`. The exact clock ages are the model's own (log 33): two advances whose sum wraps age the clocks by more than the one. -/
def Obligations.AdvanceCompletesEverywhere : Prop :=
  ∀ (s : State) (x y : U64),
    exec (.adv x) s = .next { s with now := s.now + x, pclkAge := s.pclkAge + x.toNat, iclkAge := s.iclkAge + x.toNat } ∧
    exec (.adv 0#64) s = .next s ∧
    (∃ t u, runInstrs [.adv x, .adv y] s = .next t ∧ exec (.adv (x + y)) s = .next u ∧
      t = { u with pclkAge := t.pclkAge, iclkAge := t.iclkAge } ∧ (x.toNat + y.toNat < 2 ^ 64 → t = u)) ∧
    (∀ c : Clock, elapsed (s.now + x) c = elapsed s.now c + x) ∧
    (Instr.adv x).eventWord = 0x03#8 ++ x

/-! The edge path. -/

/-- R133: `E_GUARD` outside and inside its enabling condition. -/
def Obligations.GuardStep : Prop :=
  (∀ (s : State) (lvl : Bool), s.runState = .running → s.edgeCbRegistered = true → s.edgePhase = .idle →
    exec (.eGuard lvl) s = .next { s with line := lvl, guard := true, edgePhase := .guarded }) ∧
  (∀ (s : State) (lvl : Bool), ¬ (s.runState = .running ∧ s.edgeCbRegistered = true ∧ s.edgePhase = .idle) →
    NoStep (exec (.eGuard lvl) s)) ∧
  (∀ lvl, (Instr.eGuard lvl).eventWord = (if lvl then 0x100000000000000001#72 else 0x100000000000000000#72))

/-- R134: `E_ACQ` takes a free lock and waits otherwise, until `T_REL`; outside `FAULT`, where nothing of the engine moves. -/
def Obligations.EdgeAcquireStep : Prop :=
  (∀ s : State, s.runState ≠ .fault → s.edgePhase = .guarded → s.lock = .free →
    exec .eAcq s = .next { s with lock := .edge, edgePhase := .locked }) ∧
  (∀ s : State, ¬ (s.edgePhase = .guarded ∧ s.lock = .free) → NoStep (exec .eAcq s)) ∧
  (∀ s : State, s.Inv → s.edgePhase = .guarded → s.lock ≠ .edge) ∧
  (∀ s t : State, s.edgePhase = .guarded → exec .tRel s = .next t → ∃ u, exec .eAcq t = .next u) ∧
  Instr.eventWord .eAcq = 0x110000000000000000#72

/-- R135, R139: the whole next state of `E_BODY` in its cases, for a buffer below capacity (as in every state that meets the
invariant) and a pulse clock that has not overrun (70_reset_and_hazards.md section 2; its age is the model's own, log 33), outside
`FAULT`; the pulse clock runs whenever it completes. -/
def Obligations.EdgeBodyStep : Prop :=
  (∀ s : State, s.params.Legal → s.runState ≠ .fault → s.edgePhase = .locked → s.count < capacity s.params → s.pclkAge < 2 ^ 64 →
    let d := clamp s.params (s.now - s.pclk.start)
    let p : Pulse := ⟨s.line, d⟩
    let iv := s.params.idleCheckIntervalMs
    exec .eBody s = .next { s with
      iclk := { running := true, start := s.now }
      pclk := { running := s.pclk.running, start := s.now }
      pclkAge := 0
      iclkAge := 0
      schedIntervalMs := iv
      buf := if d < s.params.maxElapsed then (if s.count + 1 = capacity s.params then [] else s.buf ++ [p]) else s.buf
      out := s.out ++ [.schedRearm iv] ++
        (if d < s.params.maxElapsed then
          [.pulse s.line d] ++
          (if s.count + 1 = capacity s.params then [.flush (s.buf ++ [p]) .overflow (trainDuration (s.buf ++ [p]))] else [])
         else if s.params.reportGapPulse then [.pulse s.line s.params.maxElapsed] else [])
      edgePhase := .done }) ∧
  (∀ s : State, s.edgePhase ≠ .locked → NoStep (exec .eBody s)) ∧
  (∀ s t : State, s.Inv → exec .eBody s = .next t → s.pclk.running = true) ∧
  Instr.eventWord .eBody = 0x120000000000000000#72

/-- R136: `E_REL`; a tick already waiting can acquire after it, and a `T_CHECK` before `E_UNGUARD` is still dropped. -/
def Obligations.EdgeReleaseStep : Prop :=
  (∀ s : State, s.runState ≠ .fault → s.edgePhase = .done →
    exec .eRel s = .next { s with lock := .free, edgePhase := .released }) ∧
  (∀ s : State, s.edgePhase ≠ .done → NoStep (exec .eRel s)) ∧
  (∀ s t : State, s.tickPhase = .wait → exec .eRel s = .next t → ∃ u, exec .tAcq t = .next u) ∧
  (∀ s t : State, s.Inv → s.runState = .running → s.tickPhase = .idle → exec .eRel s = .next t → exec .tCheck t = .next t) ∧
  Instr.eventWord .eRel = 0x130000000000000000#72

/-- R145: `E_UNGUARD`; after it the next `E_GUARD` is enabled. -/
def Obligations.UnguardStep : Prop :=
  (∀ s : State, s.runState ≠ .fault → s.edgePhase = .released →
    exec .eUnguard s = .next { s with guard := false, edgePhase := .idle }) ∧
  (∀ s : State, s.edgePhase ≠ .released → NoStep (exec .eUnguard s)) ∧
  (∀ (s t : State) (lvl : Bool), s.Inv → s.runState = .running → exec .eUnguard s = .next t → ∃ u, exec (.eGuard lvl) t = .next u) ∧
  Instr.eventWord .eUnguard = 0x140000000000000000#72

/-- R147: `EDGE` is its five micro-steps with nothing between, in every state in which its condition holds, and no step in any
other; the level is the operand and guard, lock and phase end as they began. -/
def Obligations.EdgeMacroIsItsMicroSteps : Prop :=
  (∀ (s : State) (lvl : Bool), s.runState = .running → s.edgeCbRegistered = true → s.edgePhase = .idle → s.lock = .free →
    match exec (.edge lvl) s, runInstrs (Trace.edgeMicroSteps lvl) s with
    | .next t,    .next t'    => t = t'
    | .fault r,   .fault r'   => r = r'
    | .refused r, .refused r' => r = r'
    | _,          _           => False) ∧
  (∀ (s : State) (lvl : Bool),
    ¬ (s.runState = .running ∧ s.edgeCbRegistered = true ∧ s.edgePhase = .idle ∧ s.lock = .free) → NoStep (exec (.edge lvl) s)) ∧
  (∀ (s t : State) (lvl : Bool), s.Inv → exec (.edge lvl) s = .next t →
    t.line = lvl ∧ t.guard = s.guard ∧ t.lock = s.lock ∧ t.edgePhase = s.edgePhase ∧
    ∃ u, exec .eBody { s with line := lvl, guard := true, lock := .edge, edgePhase := .locked } = .next u ∧
      t = { u with guard := false, lock := .free, edgePhase := .idle }) ∧
  (∀ lvl, (Instr.edge lvl).eventWord = (if lvl then 0x040000000000000001#72 else 0x040000000000000000#72))

/-- The whole next state of `EDGE` below capacity: the body's effect with the new level, guard, lock and phase as they began
(40_capture_engine.md section 4), on a pulse clock that has not overrun (70_reset_and_hazards.md section 2; log 33). -/
def Obligations.EdgeMacroCompletes : Prop :=
  ∀ (s : State) (lvl : Bool), s.Inv → s.runState = .running → s.edgePhase = .idle → s.lock = .free → s.pclkAge < 2 ^ 64 →
    let d := clamp s.params (s.now - s.pclk.start)
    let p : Pulse := ⟨lvl, d⟩
    let iv := s.params.idleCheckIntervalMs
    exec (.edge lvl) s = .next { s with
      line := lvl
      iclk := { running := true, start := s.now }
      pclk := { running := true, start := s.now }
      pclkAge := 0
      iclkAge := 0
      schedIntervalMs := iv
      buf := if d < s.params.maxElapsed then (if s.count + 1 = capacity s.params then [] else s.buf ++ [p]) else s.buf
      out := s.out ++ [.schedRearm iv] ++
        (if d < s.params.maxElapsed then
          [.pulse lvl d] ++
          (if s.count + 1 = capacity s.params then [.flush (s.buf ++ [p]) .overflow (trainDuration (s.buf ++ [p]))] else [])
         else if s.params.reportGapPulse then [.pulse lvl s.params.maxElapsed] else []) }

/-- The first edge after `START` measures from `START` (40_capture_engine.md section 7): a silence that reaches the clamp bound is
dropped, a shorter one becomes the first pulse of the buffer, or the whole of an Overflow flush at capacity 1. -/
def Obligations.FirstEdgeMeasuresFromStart : Prop :=
  ∀ (s : State) (dt : U64) (lvl : Bool), s.Inv → s.runState = .reset →
    ∃ t, runInstrs [.start true, .adv dt, .edge lvl] s = .next t ∧
      (s.params.maxElapsed ≤ dt → t.buf = [] ∧ flushesOf t.out = []) ∧
      (dt < s.params.maxElapsed → s.params.minElapsed < s.params.maxElapsed → 1 < capacity s.params →
        t.buf = [⟨lvl, clamp s.params dt⟩] ∧ flushesOf t.out = []) ∧
      (dt < s.params.maxElapsed → s.params.minElapsed < s.params.maxElapsed → capacity s.params = 1 →
        t.buf = [] ∧ flushesOf t.out = [.flush [⟨lvl, clamp s.params dt⟩] .overflow (clamp s.params dt).toNat])

/-- R24 and R161(b): the clamp's three cases, its range, its monotonicity, and that every constructed pulse has it; the corner cases at
the defaults. -/
def Obligations.ClampSaturatesAndIsMonotone : Prop :=
  (∀ (p : Params) (e : U64), p.Legal →
    (e < p.minElapsed → clamp p e = p.minElapsed) ∧ (p.maxElapsed < e → clamp p e = p.maxElapsed) ∧
    (p.minElapsed ≤ e → e ≤ p.maxElapsed → clamp p e = e) ∧
    p.minElapsed ≤ clamp p e ∧ clamp p e ≤ p.maxElapsed) ∧
  (∀ (p : Params) (e e' : U64), p.Legal → e ≤ e' → clamp p e ≤ clamp p e') ∧
  (∀ s : State, (constructedPulse s).duration = clamp s.params (s.now - s.pclk.start)) ∧
  clamp Params.default 0#64 = 50#64 ∧ clamp Params.default 49#64 = 50#64 ∧ clamp Params.default 50#64 = 50#64 ∧
  clamp Params.default 250000#64 = 250000#64 ∧ clamp Params.default 250001#64 = 250000#64 ∧
  clamp Params.default 0xFFFFFFFFFFFFFFFF#64 = 250000#64

/-- The append condition on the raw elapsed value (40_capture_engine.md section 4). The spec's equivalence needs the two clamp bounds to
differ (log 26). -/
def Obligations.AppendConditionOnTheRawValue : Prop :=
  ∀ (p : Params) (e : U64), p.Legal → (clamp p e < p.maxElapsed ↔ e < p.maxElapsed ∧ p.minElapsed < p.maxElapsed)

/-- R62: `BufAppend` is always defined when it is executed, so no operation ever meets a full buffer. -/
def Obligations.AppendIsAlwaysDefined : Prop :=
  ∀ (i : Instr) (s : State), s.Inv → exec i s ≠ .fault .bufAppendUndefined

/-! The tick path. -/

/-- R141: `T_CHECK` is dropped without a trace when the guard is set and moves to `T_WAIT` otherwise. -/
def Obligations.CheckStep : Prop :=
  (∀ s : State, s.runState = .running → s.schedArmed = true → s.tickPhase = .idle → s.guard = true →
    exec .tCheck s = .next s) ∧
  (∀ s : State, s.runState = .running → s.schedArmed = true → s.tickPhase = .idle → s.guard = false →
    exec .tCheck s = .next { s with tickPhase := .wait }) ∧
  (∀ s : State, ¬ (s.runState = .running ∧ s.schedArmed = true ∧ s.tickPhase = .idle) → NoStep (exec .tCheck s)) ∧
  Instr.eventWord .tCheck = 0x180000000000000000#72

/-- R142: `T_ACQ` takes a free lock, whether or not the guard has been set since, and waits otherwise, until `E_REL`; the body then
finds the idle clock just restarted and does nothing unless `GapUsecs` have passed in between; outside `FAULT`. -/
def Obligations.TickAcquireStep : Prop :=
  (∀ s : State, s.runState ≠ .fault → s.tickPhase = .wait → s.lock = .free →
    exec .tAcq s = .next { s with lock := .tick, tickPhase := .locked }) ∧
  (∀ s : State, ¬ (s.tickPhase = .wait ∧ s.lock = .free) → NoStep (exec .tAcq s)) ∧
  (∀ (s t : State) (dt : U64), s.tickPhase = .wait → exec .eBody s = .next t → dt < s.params.gapUsecs →
    ∃ u, runInstrs [.eRel, .tAcq, .adv dt, .tBody] t = .next u ∧
      u.out = t.out ∧ u.buf = t.buf ∧ u.iclk = t.iclk ∧ u.guard = s.guard ∧ u.tickPhase = .done) ∧
  Instr.eventWord .tAcq = 0x190000000000000000#72

/-- R143, R155: the whole next state of `T_BODY` in the rows of the table, on an idle clock that is stopped or has not overrun
(70_reset_and_hazards.md section 2; its age is the model's own, log 33), outside `FAULT`. -/
def Obligations.TickBodyStep : Prop :=
  (∀ s : State, s.runState ≠ .fault → s.tickPhase = .locked →
    (s.iclk.running = false → exec .tBody s = .next { s with tickPhase := .done }) ∧
    (s.iclk.running = true → s.iclkAge < 2 ^ 64 → s.now - s.iclk.start < s.params.gapUsecs →
      exec .tBody s = .next { s with tickPhase := .done }) ∧
    (s.iclk.running = true → s.iclkAge < 2 ^ 64 → s.params.gapUsecs ≤ s.now - s.iclk.start → s.count = 0 →
      exec .tBody s = .next { s with tickPhase := .done }) ∧
    (s.iclk.running = true → s.iclkAge < 2 ^ 64 → s.params.gapUsecs ≤ s.now - s.iclk.start → 1 ≤ s.count →
      exec .tBody s = .next { s with
        buf := [], out := s.out ++ [.flush s.buf .idle (trainDuration s.buf)]
        iclk := { running := false, start := s.iclk.start }, tickPhase := .done })) ∧
  (∀ s : State, s.tickPhase ≠ .locked → NoStep (exec .tBody s)) ∧
  Instr.eventWord .tBody = 0x1A0000000000000000#72

/-- R144: `T_REL`; it enables a waiting `E_ACQ`. -/
def Obligations.TickReleaseStep : Prop :=
  (∀ s : State, s.runState ≠ .fault → s.tickPhase = .done →
    exec .tRel s = .next { s with lock := .free, tickPhase := .idle }) ∧
  (∀ s : State, s.tickPhase ≠ .done → NoStep (exec .tRel s)) ∧
  (∀ s t : State, s.edgePhase = .guarded → exec .tRel s = .next t → ∃ u, exec .eAcq t = .next u) ∧
  Instr.eventWord .tRel = 0x1B0000000000000000#72

/-- R149: `TICK` is `T_CHECK` alone when the guard is set, its four micro-steps otherwise, and completes wherever `T_CHECK` is
enabled (with the guard clear, on an idle clock that is stopped or has not overrun: 70_reset_and_hazards.md section 2, log 33), with
lock and phase as they began. -/
def Obligations.TickMacroCompletes : Prop :=
  (∀ s : State, s.Inv → s.runState = .running → s.tickPhase = .idle →
    (s.guard = true → exec .tick s = .next s) ∧
    (s.guard = false → exec .tick s = runInstrs Trace.tickMicroSteps s) ∧
    (s.guard = false → (s.iclk.running = false ∨ s.iclkAge < 2 ^ 64) → exec .tick s = .next
        (if s.iclk.running = true ∧ s.params.gapUsecs ≤ s.now - s.iclk.start ∧ s.count ≠ 0 then
          { s with buf := [], out := s.out ++ [.flush s.buf .idle (trainDuration s.buf)]
                   iclk := { running := false, start := s.iclk.start } }
         else s))) ∧
  (∀ s : State, ¬ (s.runState = .running ∧ s.schedArmed = true ∧ s.tickPhase = .idle) → NoStep (exec .tick s)) ∧
  Instr.eventWord .tick = 0x050000000000000000#72

/-! The clocks and the environment. -/

/-- The measured time is exact while fewer than `2^64` microseconds separate a restart and the reading (40_capture_engine.md section 7,
70_reset_and_hazards.md section 3): after an edge body, any advances make both clocks show their exact sum modulo `2^64`; and whenever a
body reads a clock it shows the clock's exact age (the model's own fields, log 33). -/
def Obligations.MeasuredTimeIsExact : Prop :=
  (∀ (s t : State) (dts : List U64), exec .eBody s = .next t →
    ∃ u, runInstrs (dts.map .adv) t = .next u ∧
      (elapsed u.now u.pclk).toNat = (dts.map (fun dt => dt.toNat)).sum % 2 ^ 64 ∧
      (elapsed u.now u.iclk).toNat = (dts.map (fun dt => dt.toNat)).sum % 2 ^ 64 ∧
      u.pclkAge = (dts.map (fun dt => dt.toNat)).sum ∧ u.iclkAge = (dts.map (fun dt => dt.toNat)).sum) ∧
  (∀ s t : State, s.Inv → exec .eBody s = .next t → (elapsed s.now s.pclk).toNat = s.pclkAge) ∧
  (∀ s t : State, s.Inv → s.iclk.running = true → exec .tBody s = .next t → (elapsed s.now s.iclk).toNat = s.iclkAge)

/-- What the spec assumes its environment never does has no step (70_reset_and_hazards.md section 2): an edge or a tick during one of its
own kind, either of them outside `RUNNING`, a change of a constant, the reading of a clock more than `2^64 - 1` microseconds old (the age
is the model's own field, log 33), and a decoder call on more than 255 pulses. -/
def Obligations.EnvironmentViolationsHaveNoStep : Prop :=
  (∀ (s : State) (lvl : Bool), s.edgePhase ≠ .idle → NoStep (exec (.eGuard lvl) s) ∧ NoStep (exec (.edge lvl) s)) ∧
  (∀ s : State, s.tickPhase ≠ .idle → NoStep (exec .tCheck s) ∧ NoStep (exec .tick s)) ∧
  (∀ (s : State) (lvl : Bool), s.runState ≠ .running →
    NoStep (exec (.eGuard lvl) s) ∧ NoStep (exec (.edge lvl) s) ∧ NoStep (exec .tCheck s) ∧ NoStep (exec .tick s)) ∧
  (∀ (i : Instr) (s t : State), exec i s = .next t → t.params = s.params) ∧
  (∀ (s : State) (lvl : Bool), 2 ^ 64 - 1 < s.pclkAge → NoStep (exec .eBody s) ∧ NoStep (exec (.edge lvl) s)) ∧
  (∀ s : State, s.iclk.running = true → 2 ^ 64 - 1 < s.iclkAge →
    NoStep (exec .tBody s) ∧ (s.guard = false → NoStep (exec .tick s))) ∧
  (∀ (s : State) (ps : List Pulse), 255 < ps.length → NoStep (exec (.decode ps) s) ∧ NoStep (exec (.isRepeat ps) s))

/-! Flushes over runs. -/

/-- R152(b): from an empty buffer, pulses that are accepted fill it without a flush until the one that reaches the capacity, which
flushes them all once and leaves the buffer empty (40_capture_engine.md section 7); from a pulse clock just restarted, so that the
first duration is the first of the list (its age is the model's own, log 33). -/
def Obligations.OverflowFlushesExactlyAtCapacity : Prop :=
  ∀ (s : State) (train : List (Bool × U64)), s.Inv → s.Quiescent → s.runState = .running → s.buf = [] →
    s.pclk.start = s.now → s.pclkAge = 0 →
    (∀ x ∈ train, x.2 < s.params.maxElapsed) → s.params.minElapsed < s.params.maxElapsed →
    train.length ≤ capacity s.params →
    let pulses := train.map (fun x => Pulse.mk x.1 (clamp s.params x.2))
    ∃ t, runInstrs (train.flatMap (fun x => Trace.pulseOps x.1 x.2)) s = .next t ∧
      (train.length < capacity s.params → t.buf = pulses ∧ flushesOf t.out = flushesOf s.out) ∧
      (train.length = capacity s.params →
        t.buf = [] ∧ flushesOf t.out = flushesOf s.out ++ [.flush pulses .overflow (trainDuration pulses)])

/-- R152(c): after at least `GapUsecs` without an edge on a nonempty buffer the next tick emits one Idle flush of everything buffered,
and further silence and ticks emit nothing (40_capture_engine.md section 7); with the idle clock not overrun when the tick reads it
(70_reset_and_hazards.md section 2; log 33). -/
def Obligations.IdleFlushHappensExactlyOnce : Prop :=
  ∀ (s : State) (dt : U64) (later : List Instr), s.Inv → s.Quiescent → s.runState = .running → s.buf ≠ [] →
    s.iclk.running = true → s.params.gapUsecs ≤ (s.now + dt) - s.iclk.start → s.iclkAge + dt.toNat < 2 ^ 64 →
    (∀ i ∈ later, i = .tick ∨ ∃ x, i = .adv x) →
    ∃ t u, runInstrs (Trace.idleOps dt) s = .next t ∧ t.buf = [] ∧
      t.out = s.out ++ [.flush s.buf .idle (trainDuration s.buf)] ∧
      runInstrs later t = .next u ∧ u.out = t.out ∧ u.buf = []

/-! Invariants of every step. -/

/-- The control and buffer invariants are kept by every step (10_state.md sections 4 and 10). -/
def Obligations.EveryStepKeepsTheInvariant : Prop :=
  ∀ s t : State, s.Inv → step s = .next t → t.Inv

/-- Every step keeps the output history true: each flush carries exactly the accepted pulses reported since the one before it, is never
empty and carries their exact sum, and what is reported since the last flush is what the buffer holds (20_memory.md section 4,
40_capture_engine.md section 6). -/
def Obligations.EveryStepKeepsTheHistoryTrue : Prop :=
  ∀ s t : State, s.Inv → HistoryOk s.params [] s.out → openTrain s.params [] s.out = s.buf → step s = .next t →
    HistoryOk t.params [] t.out ∧ openTrain t.params [] t.out = t.buf

/-- Events are only ever appended, and constants are never written (10_state.md section 8, 00_scope.md section 3, 20_memory.md section
4). That decoder results are only appended and that no operation of its own accord moves the port are clauses on the model's own fields
(DESIGN CHOICE, log 8 and log 1). -/
def Obligations.HistoryOnlyGrowsAndConstantsStand : Prop :=
  ∀ (i : Instr) (s t : State), exec i s = .next t →
    (∃ es, t.out = s.out ++ es) ∧ (∃ rs, t.results = s.results ++ rs) ∧ t.params = s.params ∧ t.port = s.port

/-- Which agent may move which state (60_exceptions.md sections 3 and 4, 10_state.md section 6): each state element an operation
writes, the output history included. The ages, the results and the draws are the model's own fields (DESIGN CHOICE, log 33, 8, 7). -/
def Obligations.StateMovesOnlyByItsAgents : Prop :=
  ∀ (i : Instr) (s t : State), exec i s = .next t →
    (t.pclk ≠ s.pclk → .edge ∈ i.agents ∨ .host ∈ i.agents) ∧
    (t.edgePhase ≠ s.edgePhase → .edge ∈ i.agents) ∧
    (t.guard ≠ s.guard → .edge ∈ i.agents) ∧
    (t.tickPhase ≠ s.tickPhase → .tick ∈ i.agents) ∧
    (t.buf ≠ s.buf → .edge ∈ i.agents ∨ .tick ∈ i.agents) ∧
    (t.lock ≠ s.lock → .edge ∈ i.agents ∨ .tick ∈ i.agents) ∧
    (t.iclk ≠ s.iclk → .edge ∈ i.agents ∨ .tick ∈ i.agents ∨ .host ∈ i.agents) ∧
    (t.now ≠ s.now ∨ t.line ≠ s.line → .env ∈ i.agents) ∧
    (t.runState ≠ s.runState ∨ t.faultCode ≠ s.faultCode ∨ t.schedArmed ≠ s.schedArmed ∨ t.edgeCbRegistered ≠ s.edgeCbRegistered ∨
      t.lineConfigured ≠ s.lineConfigured → .host ∈ i.agents) ∧
    (t.schedIntervalMs ≠ s.schedIntervalMs → .edge ∈ i.agents ∨ .host ∈ i.agents) ∧
    (t.out ≠ s.out → .host ∈ i.agents ∨ .edge ∈ i.agents ∨ .tick ∈ i.agents) ∧
    (t.pclkAge ≠ s.pclkAge ∨ t.iclkAge ≠ s.iclkAge → .env ∈ i.agents ∨ .edge ∈ i.agents ∨ .host ∈ i.agents) ∧
    (t.results ≠ s.results ∨ t.nec ≠ s.nec ∨ t.draws ≠ s.draws → .cons ∈ i.agents)

/-- A lock holder always has an enabled next step while the clock its body reads has not overrun (70_reset_and_hazards.md section 2;
log 33), and at most one body can run (20_memory.md section 4). -/
def Obligations.LockHolderCanAlwaysMove : Prop :=
  ∀ s : State, s.Inv → s.runState = .running →
    (s.lock = .edge → s.pclkAge < 2 ^ 64 → (∃ t, exec .eBody s = .next t) ∨ ∃ t, exec .eRel s = .next t) ∧
    (s.lock = .tick → (s.iclk.running = false ∨ s.iclkAge < 2 ^ 64) → (∃ t, exec .tBody s = .next t) ∨ ∃ t, exec .tRel s = .next t) ∧
    ¬ ((∃ t, exec .eBody s = .next t) ∧ ∃ t, exec .tBody s = .next t)

/-- R153: the data state and the history of a run are those of the run that keeps only its data steps. -/
def Obligations.RunsSerialiseToTheirDataSteps : Prop :=
  ∀ (is : List Instr) (s t : State), runInstrs is s = .next t →
    runData (dataTrace is s) (dataView s) = .next (dataView t)

/-! The reference arbitration and scheduler. -/

/-- Under the reference arbitration the lock is never contended, no edge waits and no tick is dropped (60_exceptions.md section 2), while
the clocks that are read have not overrun (70_reset_and_hazards.md section 2; log 33). -/
def Obligations.MacroRunsNeverContend : Prop :=
  ∀ (is : List Instr) (s t : State), s.Inv → s.Quiescent → (∀ i ∈ is, i.isMicroStep = false) → runInstrs is s = .next t →
    t.Quiescent ∧
    (t.runState = .running →
      (t.pclkAge < 2 ^ 64 → ∀ lvl, ∃ u, exec (.edge lvl) t = .next u) ∧
      ((t.iclk.running = false ∨ t.iclkAge < 2 ^ 64) →
        ∃ u, exec .tick t = .next u ∧ runInstrs Trace.tickMicroSteps t = .next u))

/-- With an edge and a tick in one instant the edge is served first and the tick after it, in the same instant and not dropped, whether
or not a rearm resets the phase (60_exceptions.md section 2). That a tick is raised before the edge can rearm the scheduler, and the
comparison of `due`, are the model's reading of section 6 (log 34, log 18). -/
def Obligations.ArbiterServesTheEdgeThenTheTick : Prop :=
  ∀ (resetsPhase : Bool) (p : RefPlatform) (lvl : Bool) (dt dt' : U64),
    p.block.Inv → p.block.Quiescent → p.block.runState = .running → p.block.pclkAge < 2 ^ 64 →
    (p.sched.due p.block.now = true ∨ p.sched.raised = true) →
    ∃ q r, RefPlatform.step resetsPhase (some lvl) dt p = some q ∧ exec (.edge lvl) p.block = .next q.block ∧
      q.block.now = p.block.now ∧
      RefPlatform.step resetsPhase none dt' q = some r ∧ q.block.guard = false ∧ exec .tick q.block = .next r.block

/-- R298's figures at the defaults: with `REARM_RESETS_PHASE` no tick is due before 32000 microseconds after an edge body and one is due
from then on; without it a rearm leaves the next tick where it was (70_reset_and_hazards.md section 3; log 18). -/
def Obligations.RearmDecidesWhenTheNextTickIsDue : Prop :=
  (∀ (r : RefScheduler) (now dt : U64), r.armed = true → dt.toNat < 2 ^ 63 →
    ((RefScheduler.observe true now r (.schedRearm 32#32)).due (now + dt) = true ↔ 32000 ≤ dt.toNat)) ∧
  (∀ (r : RefScheduler) (now now' : U64) (iv : U32),
    (RefScheduler.observe false now r (.schedRearm iv)).due now' = r.due now')

/-! The decoder. -/

/-- R190, R211: each class is exactly its window, whatever the 64 bits; and the levels that go with the names. -/
def Obligations.ClassesAreTheWindows : Prop :=
  (∀ d : U64,
    (Nec.classify d = .short ↔ 400 ≤ d.toNat ∧ d.toNat ≤ 700) ∧
    (Nec.classify d = .space ↔ 7200 ≤ d.toNat ∧ d.toNat ≤ 10800) ∧
    (Nec.classify d = .mark ↔ 3900 ≤ d.toNat ∧ d.toNat ≤ 5100) ∧
    (Nec.classify d = .rmark ↔ 2000 ≤ d.toNat ∧ d.toNat ≤ 3000)) ∧
  (∀ p : Pulse,
    (Nec.isLeader p = true ↔ p.level = true ∧ Nec.classify p.duration = .space) ∧
    (Nec.isHeaderMark p = true ↔ p.level = false ∧ Nec.classify p.duration = .mark) ∧
    (Nec.isRepeatMark p = true ↔ p.level = false ∧ Nec.classify p.duration = .rmark) ∧
    (Nec.isShortHigh p = true ↔ p.level = true ∧ Nec.classify p.duration = .short))

/-- The two shapes of a repeat code (41_nec_decoder.md section 2): four pulses whose exact sum is in the window, the leader first or
second. -/
def Obligations.RepeatCodeHasTwoShapes : Prop :=
  ∀ ps : List Pulse, Nec.isRepeatCode ps = true ↔
    ∃ a b c d, ps = [a, b, c, d] ∧ 12000 ≤ trainDuration ps ∧ trainDuration ps ≤ 120000 ∧
      ((Nec.isLeader a = true ∧ Nec.isRepeatMark b = true ∧ Nec.isShortHigh c = true) ∨
       (Nec.isLeader a = false ∧ Nec.isLeader b = true ∧ Nec.isRepeatMark c = true ∧ Nec.isShortHigh d = true))

/-- What a decode result requires of its train (41_nec_decoder.md section 4): `RepeatCode` exactly for a repeat code, `Bytes` only from
67 pulses on and only with a stop pulse last. -/
def Obligations.BytesNeedSixtySevenPulses : Prop :=
  ∀ (order : BitOrder) (ps : List Pulse),
    (Nec.decodeTrain order ps = .repeatCode ↔ Nec.isRepeatCode ps = true) ∧
    (∀ b0 b1 b2 b3, Nec.decodeTrain order ps = .bytes b0 b1 b2 b3 →
      67 ≤ ps.length ∧ ∃ last, ps.getLast? = some last ∧ last.level = true ∧ 400 ≤ last.duration.toNat ∧ last.duration.toNat ≤ 700)

/-- Each bit of a frame is decided by its own mark alone: 0 exactly when the mark is short, 1 for any other duration
(41_nec_decoder.md sections 3 and 4). -/
def Obligations.EachMarkDecidesItsBit : Prop :=
  ∀ (order : BitOrder) (sp : U64) (marks : List U64), marks.length = 32 → 400 ≤ sp.toNat → sp.toNat ≤ 700 →
    Nec.decodeTrain order (Nec.frameOfMarks sp marks) =
      Nec.pack order (marks.map (fun m => !(decide (400 ≤ m.toNat) && decide (m.toNat ≤ 700))))

/-- R207(e): the round trip, for any four bytes, either bit order, any short space and zero mark, and any long mark outside the short
window (41_nec_decoder.md section 4, 30_encoding.md section 5). -/
def Obligations.NecFrameRoundTrip : Prop :=
  ∀ (order : BitOrder) (b0 b1 b2 b3 : Byte) (one zero sp : U64),
    400 ≤ sp.toNat → sp.toNat ≤ 700 → 400 ≤ zero.toNat → zero.toNat ≤ 700 → (one.toNat < 400 ∨ 700 < one.toNat) →
    Nec.decodeTrain order (Nec.necFrame order b0 b1 b2 b3 one zero sp) = .bytes b0 b1 b2 b3

/-- The two bit orders differ by the reversal of each byte and nothing else (41_nec_decoder.md section 3, 70_reset_and_hazards.md section
4). -/
def Obligations.BitOrdersAreByteReversals : Prop :=
  ∀ (ps : List Pulse) (b0 b1 b2 b3 : Byte),
    Nec.decodeTrain .msbFirst ps = .bytes b0 b1 b2 b3 ↔
    Nec.decodeTrain .lsbFirst ps = .bytes b0.reverse b1.reverse b2.reverse b3.reverse

/-- The sequential machine computes the function, from any register contents, in at most `n + 4` steps (41_nec_decoder.md section 5). -/
def Obligations.SequentialDecoderRefinesTheFunction : Prop :=
  ∀ (order : BitOrder) (ps : List Pulse) (g : NecRegs), ps.length ≤ 255 → g.decState = .idle →
    ∃ k g', k ≤ ps.length + 3 ∧ Nec.seqRun order ps k g = some g' ∧ g'.decState = .done ∧
      g'.res = Nec.decodeTrain order ps ∧ Nec.seqStep order ps g' = some { g' with decState := .idle }

/-- The decoder shares nothing with the engine (60_exceptions.md section 4): outside `FAULT` a decoder call and any other operation that
does not enter it may change places, whatever the other ends in; and where the other does enter `FAULT`, the call made before it
completes and has its result, and the call after it has no step (60_exceptions.md section 1; U13, log 9). -/
def Obligations.DecoderSharesNothing : Prop :=
  (∀ (s : State) (ps : List Pulse) (i : Instr), ps.length ≤ 255 → (∀ qs, i ≠ .decode qs) → (∀ qs, i ≠ .isRepeat qs) →
    s.runState ≠ .fault → (∀ t, exec i s = .next t → t.runState ≠ .fault) →
    runInstrs [.decode ps, i] s = runInstrs [i, .decode ps] s ∧ runInstrs [.isRepeat ps, i] s = runInstrs [i, .isRepeat ps] s) ∧
  (∀ (s t : State) (ps : List Pulse) (i : Instr), ps.length ≤ 255 → s.runState ≠ .fault → exec i s = .next t → t.runState = .fault →
    NoStep (runInstrs [i, .decode ps] s) ∧ NoStep (runInstrs [i, .isRepeat ps] s) ∧
    (∃ u, runInstrs [.decode ps, i] s = .next u ∧ u.results = s.results ++ [.decoded (Nec.decodeTrain s.params.bitOrder ps)] ∧
      u = { t with results := u.results, nec := u.nec, draws := u.draws }) ∧
    (∃ u, runInstrs [.isRepeat ps, i] s = .next u ∧ u.results = s.results ++ [.isRepeat (Nec.isRepeatCode ps)] ∧
      u = { t with results := u.results, nec := u.nec, draws := u.draws }))

/-- Decoder calls complete in every run state but `FAULT` and write only their result (41_nec_decoder.md sections 1 to 3, 10_state.md section 7);
the internal registers are left at free values, and more than 255 pulses are refused at the port (20_memory.md section 1). That they
complete in `RESET` and `STOPPED` and not in `FAULT` (60_exceptions.md section 1, U13) is the model's reading of rules that differ
(DEDUCED, log 9); the list the result is appended to is the model's own field (DESIGN CHOICE, log 8). -/
def Obligations.DecoderCallsWriteOnlyTheirResult : Prop :=
  (∀ (s : State) (ps : List Pulse), s.runState ≠ .fault → ps.length ≤ 255 →
    ∃ t, exec (.decode ps) s = .next t ∧
      t = { s with results := s.results ++ [.decoded (Nec.decodeTrain s.params.bitOrder ps)], nec := t.nec, draws := t.draws }) ∧
  (∀ (s : State) (ps : List Pulse), s.runState ≠ .fault → ps.length ≤ 255 →
    ∃ t, exec (.isRepeat ps) s = .next t ∧
      t = { s with results := s.results ++ [.isRepeat (Nec.isRepeatCode ps)], nec := t.nec, draws := t.draws }) ∧
  (∀ (s : State) (ps : List Pulse), s.runState = .fault → NoStep (exec (.decode ps) s) ∧ NoStep (exec (.isRepeat ps) s)) ∧
  (∀ (s : State) (ps : List Pulse), 255 < ps.length → NoStep (exec (.decode ps) s) ∧ NoStep (exec (.isRepeat ps) s))
end

