-- ==== Sys2Proof/Laws/State.lean ====
section
/-! SUPPORT. One lemma per field per update: what each named operation of Machine/Ops.lean leaves in each field of the state. -/

namespace Sys2Proof.Machine

/-! `emit` -/

@[simp] theorem emit_params (e : Event) (s : State) : (emit e s).params = s.params := rfl
@[simp] theorem emit_now (e : Event) (s : State) : (emit e s).now = s.now := rfl
@[simp] theorem emit_line (e : Event) (s : State) : (emit e s).line = s.line := rfl
@[simp] theorem emit_runState (e : Event) (s : State) : (emit e s).runState = s.runState := rfl
@[simp] theorem emit_faultCode (e : Event) (s : State) : (emit e s).faultCode = s.faultCode := rfl
@[simp] theorem emit_pclk (e : Event) (s : State) : (emit e s).pclk = s.pclk := rfl
@[simp] theorem emit_iclk (e : Event) (s : State) : (emit e s).iclk = s.iclk := rfl
@[simp] theorem emit_buf (e : Event) (s : State) : (emit e s).buf = s.buf := rfl
@[simp] theorem emit_guard (e : Event) (s : State) : (emit e s).guard = s.guard := rfl
@[simp] theorem emit_lock (e : Event) (s : State) : (emit e s).lock = s.lock := rfl
@[simp] theorem emit_edgePhase (e : Event) (s : State) : (emit e s).edgePhase = s.edgePhase := rfl
@[simp] theorem emit_tickPhase (e : Event) (s : State) : (emit e s).tickPhase = s.tickPhase := rfl
@[simp] theorem emit_schedArmed (e : Event) (s : State) : (emit e s).schedArmed = s.schedArmed := rfl
@[simp] theorem emit_schedIntervalMs (e : Event) (s : State) : (emit e s).schedIntervalMs = s.schedIntervalMs := rfl
@[simp] theorem emit_lineConfigured (e : Event) (s : State) : (emit e s).lineConfigured = s.lineConfigured := rfl
@[simp] theorem emit_edgeCbRegistered (e : Event) (s : State) : (emit e s).edgeCbRegistered = s.edgeCbRegistered := rfl
@[simp] theorem emit_out (e : Event) (s : State) : (emit e s).out = s.out ++ [e] := rfl
@[simp] theorem emit_nec (e : Event) (s : State) : (emit e s).nec = s.nec := rfl
@[simp] theorem emit_pclkAge (e : Event) (s : State) : (emit e s).pclkAge = s.pclkAge := rfl
@[simp] theorem emit_iclkAge (e : Event) (s : State) : (emit e s).iclkAge = s.iclkAge := rfl
@[simp] theorem emit_results (e : Event) (s : State) : (emit e s).results = s.results := rfl
@[simp] theorem emit_draws (e : Event) (s : State) : (emit e s).draws = s.draws := rfl
@[simp] theorem emit_port (e : Event) (s : State) : (emit e s).port = s.port := rfl

/-! `raiseFault` -/

@[simp] theorem raiseFault_params (c : FaultCode) (s : State) : (raiseFault c s).params = s.params := rfl
@[simp] theorem raiseFault_now (c : FaultCode) (s : State) : (raiseFault c s).now = s.now := rfl
@[simp] theorem raiseFault_line (c : FaultCode) (s : State) : (raiseFault c s).line = s.line := rfl
@[simp] theorem raiseFault_runState (c : FaultCode) (s : State) : (raiseFault c s).runState = .fault := rfl
@[simp] theorem raiseFault_faultCode (c : FaultCode) (s : State) : (raiseFault c s).faultCode = c := rfl
@[simp] theorem raiseFault_pclk (c : FaultCode) (s : State) : (raiseFault c s).pclk = s.pclk := rfl
@[simp] theorem raiseFault_iclk (c : FaultCode) (s : State) : (raiseFault c s).iclk = s.iclk := rfl
@[simp] theorem raiseFault_buf (c : FaultCode) (s : State) : (raiseFault c s).buf = s.buf := rfl
@[simp] theorem raiseFault_guard (c : FaultCode) (s : State) : (raiseFault c s).guard = s.guard := rfl
@[simp] theorem raiseFault_lock (c : FaultCode) (s : State) : (raiseFault c s).lock = s.lock := rfl
@[simp] theorem raiseFault_edgePhase (c : FaultCode) (s : State) : (raiseFault c s).edgePhase = s.edgePhase := rfl
@[simp] theorem raiseFault_tickPhase (c : FaultCode) (s : State) : (raiseFault c s).tickPhase = s.tickPhase := rfl
@[simp] theorem raiseFault_schedArmed (c : FaultCode) (s : State) : (raiseFault c s).schedArmed = s.schedArmed := rfl
@[simp] theorem raiseFault_schedIntervalMs (c : FaultCode) (s : State) : (raiseFault c s).schedIntervalMs = s.schedIntervalMs := rfl
@[simp] theorem raiseFault_lineConfigured (c : FaultCode) (s : State) : (raiseFault c s).lineConfigured = s.lineConfigured := rfl
@[simp] theorem raiseFault_edgeCbRegistered (c : FaultCode) (s : State) : (raiseFault c s).edgeCbRegistered = s.edgeCbRegistered := rfl
@[simp] theorem raiseFault_out (c : FaultCode) (s : State) : (raiseFault c s).out = s.out ++ [.fault c] := rfl
@[simp] theorem raiseFault_nec (c : FaultCode) (s : State) : (raiseFault c s).nec = s.nec := rfl
@[simp] theorem raiseFault_pclkAge (c : FaultCode) (s : State) : (raiseFault c s).pclkAge = s.pclkAge := rfl
@[simp] theorem raiseFault_iclkAge (c : FaultCode) (s : State) : (raiseFault c s).iclkAge = s.iclkAge := rfl
@[simp] theorem raiseFault_results (c : FaultCode) (s : State) : (raiseFault c s).results = s.results := rfl
@[simp] theorem raiseFault_draws (c : FaultCode) (s : State) : (raiseFault c s).draws = s.draws := rfl
@[simp] theorem raiseFault_port (c : FaultCode) (s : State) : (raiseFault c s).port = s.port := rfl

/-! `bufAppend` -/

@[simp] theorem bufAppend_params (p : Pulse) (s : State) : (bufAppend p s).params = s.params := rfl
@[simp] theorem bufAppend_now (p : Pulse) (s : State) : (bufAppend p s).now = s.now := rfl
@[simp] theorem bufAppend_line (p : Pulse) (s : State) : (bufAppend p s).line = s.line := rfl
@[simp] theorem bufAppend_runState (p : Pulse) (s : State) : (bufAppend p s).runState = s.runState := rfl
@[simp] theorem bufAppend_faultCode (p : Pulse) (s : State) : (bufAppend p s).faultCode = s.faultCode := rfl
@[simp] theorem bufAppend_pclk (p : Pulse) (s : State) : (bufAppend p s).pclk = s.pclk := rfl
@[simp] theorem bufAppend_iclk (p : Pulse) (s : State) : (bufAppend p s).iclk = s.iclk := rfl
@[simp] theorem bufAppend_buf (p : Pulse) (s : State) : (bufAppend p s).buf = s.buf ++ [p] := rfl
@[simp] theorem bufAppend_guard (p : Pulse) (s : State) : (bufAppend p s).guard = s.guard := rfl
@[simp] theorem bufAppend_lock (p : Pulse) (s : State) : (bufAppend p s).lock = s.lock := rfl
@[simp] theorem bufAppend_edgePhase (p : Pulse) (s : State) : (bufAppend p s).edgePhase = s.edgePhase := rfl
@[simp] theorem bufAppend_tickPhase (p : Pulse) (s : State) : (bufAppend p s).tickPhase = s.tickPhase := rfl
@[simp] theorem bufAppend_schedArmed (p : Pulse) (s : State) : (bufAppend p s).schedArmed = s.schedArmed := rfl
@[simp] theorem bufAppend_schedIntervalMs (p : Pulse) (s : State) : (bufAppend p s).schedIntervalMs = s.schedIntervalMs := rfl
@[simp] theorem bufAppend_lineConfigured (p : Pulse) (s : State) : (bufAppend p s).lineConfigured = s.lineConfigured := rfl
@[simp] theorem bufAppend_edgeCbRegistered (p : Pulse) (s : State) : (bufAppend p s).edgeCbRegistered = s.edgeCbRegistered := rfl
@[simp] theorem bufAppend_out (p : Pulse) (s : State) : (bufAppend p s).out = s.out := rfl
@[simp] theorem bufAppend_nec (p : Pulse) (s : State) : (bufAppend p s).nec = s.nec := rfl
@[simp] theorem bufAppend_pclkAge (p : Pulse) (s : State) : (bufAppend p s).pclkAge = s.pclkAge := rfl
@[simp] theorem bufAppend_iclkAge (p : Pulse) (s : State) : (bufAppend p s).iclkAge = s.iclkAge := rfl
@[simp] theorem bufAppend_results (p : Pulse) (s : State) : (bufAppend p s).results = s.results := rfl
@[simp] theorem bufAppend_draws (p : Pulse) (s : State) : (bufAppend p s).draws = s.draws := rfl
@[simp] theorem bufAppend_port (p : Pulse) (s : State) : (bufAppend p s).port = s.port := rfl

/-! `bufClear` -/

@[simp] theorem bufClear_params (s : State) : (bufClear s).params = s.params := rfl
@[simp] theorem bufClear_now (s : State) : (bufClear s).now = s.now := rfl
@[simp] theorem bufClear_line (s : State) : (bufClear s).line = s.line := rfl
@[simp] theorem bufClear_runState (s : State) : (bufClear s).runState = s.runState := rfl
@[simp] theorem bufClear_faultCode (s : State) : (bufClear s).faultCode = s.faultCode := rfl
@[simp] theorem bufClear_pclk (s : State) : (bufClear s).pclk = s.pclk := rfl
@[simp] theorem bufClear_iclk (s : State) : (bufClear s).iclk = s.iclk := rfl
@[simp] theorem bufClear_buf (s : State) : (bufClear s).buf = [] := rfl
@[simp] theorem bufClear_guard (s : State) : (bufClear s).guard = s.guard := rfl
@[simp] theorem bufClear_lock (s : State) : (bufClear s).lock = s.lock := rfl
@[simp] theorem bufClear_edgePhase (s : State) : (bufClear s).edgePhase = s.edgePhase := rfl
@[simp] theorem bufClear_tickPhase (s : State) : (bufClear s).tickPhase = s.tickPhase := rfl
@[simp] theorem bufClear_schedArmed (s : State) : (bufClear s).schedArmed = s.schedArmed := rfl
@[simp] theorem bufClear_schedIntervalMs (s : State) : (bufClear s).schedIntervalMs = s.schedIntervalMs := rfl
@[simp] theorem bufClear_lineConfigured (s : State) : (bufClear s).lineConfigured = s.lineConfigured := rfl
@[simp] theorem bufClear_edgeCbRegistered (s : State) : (bufClear s).edgeCbRegistered = s.edgeCbRegistered := rfl
@[simp] theorem bufClear_out (s : State) : (bufClear s).out = s.out := rfl
@[simp] theorem bufClear_nec (s : State) : (bufClear s).nec = s.nec := rfl
@[simp] theorem bufClear_pclkAge (s : State) : (bufClear s).pclkAge = s.pclkAge := rfl
@[simp] theorem bufClear_iclkAge (s : State) : (bufClear s).iclkAge = s.iclkAge := rfl
@[simp] theorem bufClear_results (s : State) : (bufClear s).results = s.results := rfl
@[simp] theorem bufClear_draws (s : State) : (bufClear s).draws = s.draws := rfl
@[simp] theorem bufClear_port (s : State) : (bufClear s).port = s.port := rfl

/-! `flush` -/

@[simp] theorem flush_params (r : FlushReason) (s : State) : (flush r s).params = s.params := rfl
@[simp] theorem flush_now (r : FlushReason) (s : State) : (flush r s).now = s.now := rfl
@[simp] theorem flush_line (r : FlushReason) (s : State) : (flush r s).line = s.line := rfl
@[simp] theorem flush_runState (r : FlushReason) (s : State) : (flush r s).runState = s.runState := rfl
@[simp] theorem flush_faultCode (r : FlushReason) (s : State) : (flush r s).faultCode = s.faultCode := rfl
@[simp] theorem flush_pclk (r : FlushReason) (s : State) : (flush r s).pclk = s.pclk := rfl
@[simp] theorem flush_iclk (r : FlushReason) (s : State) : (flush r s).iclk = s.iclk := rfl
@[simp] theorem flush_buf (r : FlushReason) (s : State) : (flush r s).buf = [] := rfl
@[simp] theorem flush_guard (r : FlushReason) (s : State) : (flush r s).guard = s.guard := rfl
@[simp] theorem flush_lock (r : FlushReason) (s : State) : (flush r s).lock = s.lock := rfl
@[simp] theorem flush_edgePhase (r : FlushReason) (s : State) : (flush r s).edgePhase = s.edgePhase := rfl
@[simp] theorem flush_tickPhase (r : FlushReason) (s : State) : (flush r s).tickPhase = s.tickPhase := rfl
@[simp] theorem flush_schedArmed (r : FlushReason) (s : State) : (flush r s).schedArmed = s.schedArmed := rfl
@[simp] theorem flush_schedIntervalMs (r : FlushReason) (s : State) : (flush r s).schedIntervalMs = s.schedIntervalMs := rfl
@[simp] theorem flush_lineConfigured (r : FlushReason) (s : State) : (flush r s).lineConfigured = s.lineConfigured := rfl
@[simp] theorem flush_edgeCbRegistered (r : FlushReason) (s : State) : (flush r s).edgeCbRegistered = s.edgeCbRegistered := rfl
@[simp] theorem flush_out (r : FlushReason) (s : State) : (flush r s).out = s.out ++ [.flush s.buf r (trainDuration s.buf)] := rfl
@[simp] theorem flush_nec (r : FlushReason) (s : State) : (flush r s).nec = s.nec := rfl
@[simp] theorem flush_pclkAge (r : FlushReason) (s : State) : (flush r s).pclkAge = s.pclkAge := rfl
@[simp] theorem flush_iclkAge (r : FlushReason) (s : State) : (flush r s).iclkAge = s.iclkAge := rfl
@[simp] theorem flush_results (r : FlushReason) (s : State) : (flush r s).results = s.results := rfl
@[simp] theorem flush_draws (r : FlushReason) (s : State) : (flush r s).draws = s.draws := rfl
@[simp] theorem flush_port (r : FlushReason) (s : State) : (flush r s).port = s.port := rfl

/-! `startAccepted` -/

@[simp] theorem startAccepted_params (s : State) : (startAccepted s).params = s.params := rfl
@[simp] theorem startAccepted_now (s : State) : (startAccepted s).now = s.now := rfl
@[simp] theorem startAccepted_line (s : State) : (startAccepted s).line = s.line := rfl
@[simp] theorem startAccepted_runState (s : State) : (startAccepted s).runState = .running := rfl
@[simp] theorem startAccepted_faultCode (s : State) : (startAccepted s).faultCode = s.faultCode := rfl
@[simp] theorem startAccepted_pclk (s : State) : (startAccepted s).pclk = startedClock s.now := rfl
@[simp] theorem startAccepted_iclk (s : State) : (startAccepted s).iclk = startedClock s.now := rfl
@[simp] theorem startAccepted_buf (s : State) : (startAccepted s).buf = s.buf := rfl
@[simp] theorem startAccepted_guard (s : State) : (startAccepted s).guard = s.guard := rfl
@[simp] theorem startAccepted_lock (s : State) : (startAccepted s).lock = s.lock := rfl
@[simp] theorem startAccepted_edgePhase (s : State) : (startAccepted s).edgePhase = s.edgePhase := rfl
@[simp] theorem startAccepted_tickPhase (s : State) : (startAccepted s).tickPhase = s.tickPhase := rfl
@[simp] theorem startAccepted_schedArmed (s : State) : (startAccepted s).schedArmed = true := rfl
@[simp] theorem startAccepted_schedIntervalMs (s : State) : (startAccepted s).schedIntervalMs = s.params.idleCheckIntervalMs := rfl
@[simp] theorem startAccepted_lineConfigured (s : State) : (startAccepted s).lineConfigured = true := rfl
@[simp] theorem startAccepted_edgeCbRegistered (s : State) : (startAccepted s).edgeCbRegistered = true := rfl
@[simp] theorem startAccepted_out (s : State) : (startAccepted s).out = s.out ++ [.lineOnEdge true true] ++ [.schedArm 0#32 s.params.idleCheckIntervalMs] := rfl
@[simp] theorem startAccepted_nec (s : State) : (startAccepted s).nec = s.nec := rfl
@[simp] theorem startAccepted_pclkAge (s : State) : (startAccepted s).pclkAge = 0 := rfl
@[simp] theorem startAccepted_iclkAge (s : State) : (startAccepted s).iclkAge = 0 := rfl
@[simp] theorem startAccepted_results (s : State) : (startAccepted s).results = s.results := rfl
@[simp] theorem startAccepted_draws (s : State) : (startAccepted s).draws = s.draws := rfl
@[simp] theorem startAccepted_port (s : State) : (startAccepted s).port = s.port := rfl

/-! `stopEffect` -/

@[simp] theorem stopEffect_params (s : State) : (stopEffect s).params = s.params := rfl
@[simp] theorem stopEffect_now (s : State) : (stopEffect s).now = s.now := rfl
@[simp] theorem stopEffect_line (s : State) : (stopEffect s).line = s.line := rfl
@[simp] theorem stopEffect_runState (s : State) : (stopEffect s).runState = .stopped := rfl
@[simp] theorem stopEffect_faultCode (s : State) : (stopEffect s).faultCode = s.faultCode := rfl
@[simp] theorem stopEffect_pclk (s : State) : (stopEffect s).pclk = s.pclk := rfl
@[simp] theorem stopEffect_iclk (s : State) : (stopEffect s).iclk = s.iclk := rfl
@[simp] theorem stopEffect_buf (s : State) : (stopEffect s).buf = s.buf := rfl
@[simp] theorem stopEffect_guard (s : State) : (stopEffect s).guard = s.guard := rfl
@[simp] theorem stopEffect_lock (s : State) : (stopEffect s).lock = s.lock := rfl
@[simp] theorem stopEffect_edgePhase (s : State) : (stopEffect s).edgePhase = s.edgePhase := rfl
@[simp] theorem stopEffect_tickPhase (s : State) : (stopEffect s).tickPhase = s.tickPhase := rfl
@[simp] theorem stopEffect_schedArmed (s : State) : (stopEffect s).schedArmed = false := rfl
@[simp] theorem stopEffect_schedIntervalMs (s : State) : (stopEffect s).schedIntervalMs = s.schedIntervalMs := rfl
@[simp] theorem stopEffect_lineConfigured (s : State) : (stopEffect s).lineConfigured = s.lineConfigured := rfl
@[simp] theorem stopEffect_edgeCbRegistered (s : State) : (stopEffect s).edgeCbRegistered = false := rfl
@[simp] theorem stopEffect_out (s : State) : (stopEffect s).out = s.out ++ [.lineOffEdge] ++ [.schedStop] := rfl
@[simp] theorem stopEffect_nec (s : State) : (stopEffect s).nec = s.nec := rfl
@[simp] theorem stopEffect_pclkAge (s : State) : (stopEffect s).pclkAge = s.pclkAge := rfl
@[simp] theorem stopEffect_iclkAge (s : State) : (stopEffect s).iclkAge = s.iclkAge := rfl
@[simp] theorem stopEffect_results (s : State) : (stopEffect s).results = s.results := rfl
@[simp] theorem stopEffect_draws (s : State) : (stopEffect s).draws = s.draws := rfl
@[simp] theorem stopEffect_port (s : State) : (stopEffect s).port = s.port := rfl

/-! `advance` -/

@[simp] theorem advance_params (dt : U64) (s : State) : (advance dt s).params = s.params := rfl
@[simp] theorem advance_now (dt : U64) (s : State) : (advance dt s).now = s.now + dt := rfl
@[simp] theorem advance_line (dt : U64) (s : State) : (advance dt s).line = s.line := rfl
@[simp] theorem advance_runState (dt : U64) (s : State) : (advance dt s).runState = s.runState := rfl
@[simp] theorem advance_faultCode (dt : U64) (s : State) : (advance dt s).faultCode = s.faultCode := rfl
@[simp] theorem advance_pclk (dt : U64) (s : State) : (advance dt s).pclk = s.pclk := rfl
@[simp] theorem advance_iclk (dt : U64) (s : State) : (advance dt s).iclk = s.iclk := rfl
@[simp] theorem advance_buf (dt : U64) (s : State) : (advance dt s).buf = s.buf := rfl
@[simp] theorem advance_guard (dt : U64) (s : State) : (advance dt s).guard = s.guard := rfl
@[simp] theorem advance_lock (dt : U64) (s : State) : (advance dt s).lock = s.lock := rfl
@[simp] theorem advance_edgePhase (dt : U64) (s : State) : (advance dt s).edgePhase = s.edgePhase := rfl
@[simp] theorem advance_tickPhase (dt : U64) (s : State) : (advance dt s).tickPhase = s.tickPhase := rfl
@[simp] theorem advance_schedArmed (dt : U64) (s : State) : (advance dt s).schedArmed = s.schedArmed := rfl
@[simp] theorem advance_schedIntervalMs (dt : U64) (s : State) : (advance dt s).schedIntervalMs = s.schedIntervalMs := rfl
@[simp] theorem advance_lineConfigured (dt : U64) (s : State) : (advance dt s).lineConfigured = s.lineConfigured := rfl
@[simp] theorem advance_edgeCbRegistered (dt : U64) (s : State) : (advance dt s).edgeCbRegistered = s.edgeCbRegistered := rfl
@[simp] theorem advance_out (dt : U64) (s : State) : (advance dt s).out = s.out := rfl
@[simp] theorem advance_nec (dt : U64) (s : State) : (advance dt s).nec = s.nec := rfl
@[simp] theorem advance_pclkAge (dt : U64) (s : State) : (advance dt s).pclkAge = s.pclkAge + dt.toNat := rfl
@[simp] theorem advance_iclkAge (dt : U64) (s : State) : (advance dt s).iclkAge = s.iclkAge + dt.toNat := rfl
@[simp] theorem advance_results (dt : U64) (s : State) : (advance dt s).results = s.results := rfl
@[simp] theorem advance_draws (dt : U64) (s : State) : (advance dt s).draws = s.draws := rfl
@[simp] theorem advance_port (dt : U64) (s : State) : (advance dt s).port = s.port := rfl

/-! `guardEffect` -/

@[simp] theorem guardEffect_params (lvl : Bool) (s : State) : (guardEffect lvl s).params = s.params := rfl
@[simp] theorem guardEffect_now (lvl : Bool) (s : State) : (guardEffect lvl s).now = s.now := rfl
@[simp] theorem guardEffect_line (lvl : Bool) (s : State) : (guardEffect lvl s).line = lvl := rfl
@[simp] theorem guardEffect_runState (lvl : Bool) (s : State) : (guardEffect lvl s).runState = s.runState := rfl
@[simp] theorem guardEffect_faultCode (lvl : Bool) (s : State) : (guardEffect lvl s).faultCode = s.faultCode := rfl
@[simp] theorem guardEffect_pclk (lvl : Bool) (s : State) : (guardEffect lvl s).pclk = s.pclk := rfl
@[simp] theorem guardEffect_iclk (lvl : Bool) (s : State) : (guardEffect lvl s).iclk = s.iclk := rfl
@[simp] theorem guardEffect_buf (lvl : Bool) (s : State) : (guardEffect lvl s).buf = s.buf := rfl
@[simp] theorem guardEffect_guard (lvl : Bool) (s : State) : (guardEffect lvl s).guard = true := rfl
@[simp] theorem guardEffect_lock (lvl : Bool) (s : State) : (guardEffect lvl s).lock = s.lock := rfl
@[simp] theorem guardEffect_edgePhase (lvl : Bool) (s : State) : (guardEffect lvl s).edgePhase = .guarded := rfl
@[simp] theorem guardEffect_tickPhase (lvl : Bool) (s : State) : (guardEffect lvl s).tickPhase = s.tickPhase := rfl
@[simp] theorem guardEffect_schedArmed (lvl : Bool) (s : State) : (guardEffect lvl s).schedArmed = s.schedArmed := rfl
@[simp] theorem guardEffect_schedIntervalMs (lvl : Bool) (s : State) : (guardEffect lvl s).schedIntervalMs = s.schedIntervalMs := rfl
@[simp] theorem guardEffect_lineConfigured (lvl : Bool) (s : State) : (guardEffect lvl s).lineConfigured = s.lineConfigured := rfl
@[simp] theorem guardEffect_edgeCbRegistered (lvl : Bool) (s : State) : (guardEffect lvl s).edgeCbRegistered = s.edgeCbRegistered := rfl
@[simp] theorem guardEffect_out (lvl : Bool) (s : State) : (guardEffect lvl s).out = s.out := rfl
@[simp] theorem guardEffect_nec (lvl : Bool) (s : State) : (guardEffect lvl s).nec = s.nec := rfl
@[simp] theorem guardEffect_pclkAge (lvl : Bool) (s : State) : (guardEffect lvl s).pclkAge = s.pclkAge := rfl
@[simp] theorem guardEffect_iclkAge (lvl : Bool) (s : State) : (guardEffect lvl s).iclkAge = s.iclkAge := rfl
@[simp] theorem guardEffect_results (lvl : Bool) (s : State) : (guardEffect lvl s).results = s.results := rfl
@[simp] theorem guardEffect_draws (lvl : Bool) (s : State) : (guardEffect lvl s).draws = s.draws := rfl
@[simp] theorem guardEffect_port (lvl : Bool) (s : State) : (guardEffect lvl s).port = s.port := rfl

/-! `edgeAcquireEffect` -/

@[simp] theorem edgeAcquireEffect_params (s : State) : (edgeAcquireEffect s).params = s.params := rfl
@[simp] theorem edgeAcquireEffect_now (s : State) : (edgeAcquireEffect s).now = s.now := rfl
@[simp] theorem edgeAcquireEffect_line (s : State) : (edgeAcquireEffect s).line = s.line := rfl
@[simp] theorem edgeAcquireEffect_runState (s : State) : (edgeAcquireEffect s).runState = s.runState := rfl
@[simp] theorem edgeAcquireEffect_faultCode (s : State) : (edgeAcquireEffect s).faultCode = s.faultCode := rfl
@[simp] theorem edgeAcquireEffect_pclk (s : State) : (edgeAcquireEffect s).pclk = s.pclk := rfl
@[simp] theorem edgeAcquireEffect_iclk (s : State) : (edgeAcquireEffect s).iclk = s.iclk := rfl
@[simp] theorem edgeAcquireEffect_buf (s : State) : (edgeAcquireEffect s).buf = s.buf := rfl
@[simp] theorem edgeAcquireEffect_guard (s : State) : (edgeAcquireEffect s).guard = s.guard := rfl
@[simp] theorem edgeAcquireEffect_lock (s : State) : (edgeAcquireEffect s).lock = .edge := rfl
@[simp] theorem edgeAcquireEffect_edgePhase (s : State) : (edgeAcquireEffect s).edgePhase = .locked := rfl
@[simp] theorem edgeAcquireEffect_tickPhase (s : State) : (edgeAcquireEffect s).tickPhase = s.tickPhase := rfl
@[simp] theorem edgeAcquireEffect_schedArmed (s : State) : (edgeAcquireEffect s).schedArmed = s.schedArmed := rfl
@[simp] theorem edgeAcquireEffect_schedIntervalMs (s : State) : (edgeAcquireEffect s).schedIntervalMs = s.schedIntervalMs := rfl
@[simp] theorem edgeAcquireEffect_lineConfigured (s : State) : (edgeAcquireEffect s).lineConfigured = s.lineConfigured := rfl
@[simp] theorem edgeAcquireEffect_edgeCbRegistered (s : State) : (edgeAcquireEffect s).edgeCbRegistered = s.edgeCbRegistered := rfl
@[simp] theorem edgeAcquireEffect_out (s : State) : (edgeAcquireEffect s).out = s.out := rfl
@[simp] theorem edgeAcquireEffect_nec (s : State) : (edgeAcquireEffect s).nec = s.nec := rfl
@[simp] theorem edgeAcquireEffect_pclkAge (s : State) : (edgeAcquireEffect s).pclkAge = s.pclkAge := rfl
@[simp] theorem edgeAcquireEffect_iclkAge (s : State) : (edgeAcquireEffect s).iclkAge = s.iclkAge := rfl
@[simp] theorem edgeAcquireEffect_results (s : State) : (edgeAcquireEffect s).results = s.results := rfl
@[simp] theorem edgeAcquireEffect_draws (s : State) : (edgeAcquireEffect s).draws = s.draws := rfl
@[simp] theorem edgeAcquireEffect_port (s : State) : (edgeAcquireEffect s).port = s.port := rfl

/-! `rearm` -/

@[simp] theorem rearm_params (s : State) : (rearm s).params = s.params := rfl
@[simp] theorem rearm_now (s : State) : (rearm s).now = s.now := rfl
@[simp] theorem rearm_line (s : State) : (rearm s).line = s.line := rfl
@[simp] theorem rearm_runState (s : State) : (rearm s).runState = s.runState := rfl
@[simp] theorem rearm_faultCode (s : State) : (rearm s).faultCode = s.faultCode := rfl
@[simp] theorem rearm_pclk (s : State) : (rearm s).pclk = s.pclk := rfl
@[simp] theorem rearm_iclk (s : State) : (rearm s).iclk = startedClock s.now := rfl
@[simp] theorem rearm_buf (s : State) : (rearm s).buf = s.buf := rfl
@[simp] theorem rearm_guard (s : State) : (rearm s).guard = s.guard := rfl
@[simp] theorem rearm_lock (s : State) : (rearm s).lock = s.lock := rfl
@[simp] theorem rearm_edgePhase (s : State) : (rearm s).edgePhase = s.edgePhase := rfl
@[simp] theorem rearm_tickPhase (s : State) : (rearm s).tickPhase = s.tickPhase := rfl
@[simp] theorem rearm_schedArmed (s : State) : (rearm s).schedArmed = s.schedArmed := rfl
@[simp] theorem rearm_schedIntervalMs (s : State) : (rearm s).schedIntervalMs = s.params.idleCheckIntervalMs := rfl
@[simp] theorem rearm_lineConfigured (s : State) : (rearm s).lineConfigured = s.lineConfigured := rfl
@[simp] theorem rearm_edgeCbRegistered (s : State) : (rearm s).edgeCbRegistered = s.edgeCbRegistered := rfl
@[simp] theorem rearm_out (s : State) : (rearm s).out = s.out ++ [.schedRearm s.params.idleCheckIntervalMs] := rfl
@[simp] theorem rearm_nec (s : State) : (rearm s).nec = s.nec := rfl
@[simp] theorem rearm_pclkAge (s : State) : (rearm s).pclkAge = s.pclkAge := rfl
@[simp] theorem rearm_iclkAge (s : State) : (rearm s).iclkAge = 0 := rfl
@[simp] theorem rearm_results (s : State) : (rearm s).results = s.results := rfl
@[simp] theorem rearm_draws (s : State) : (rearm s).draws = s.draws := rfl
@[simp] theorem rearm_port (s : State) : (rearm s).port = s.port := rfl

/-! `restartPulseClock` -/

@[simp] theorem restartPulseClock_params (s : State) : (restartPulseClock s).params = s.params := rfl
@[simp] theorem restartPulseClock_now (s : State) : (restartPulseClock s).now = s.now := rfl
@[simp] theorem restartPulseClock_line (s : State) : (restartPulseClock s).line = s.line := rfl
@[simp] theorem restartPulseClock_runState (s : State) : (restartPulseClock s).runState = s.runState := rfl
@[simp] theorem restartPulseClock_faultCode (s : State) : (restartPulseClock s).faultCode = s.faultCode := rfl
@[simp] theorem restartPulseClock_pclk (s : State) : (restartPulseClock s).pclk = ⟨s.pclk.running, s.now⟩ := rfl
@[simp] theorem restartPulseClock_iclk (s : State) : (restartPulseClock s).iclk = s.iclk := rfl
@[simp] theorem restartPulseClock_buf (s : State) : (restartPulseClock s).buf = s.buf := rfl
@[simp] theorem restartPulseClock_guard (s : State) : (restartPulseClock s).guard = s.guard := rfl
@[simp] theorem restartPulseClock_lock (s : State) : (restartPulseClock s).lock = s.lock := rfl
@[simp] theorem restartPulseClock_edgePhase (s : State) : (restartPulseClock s).edgePhase = s.edgePhase := rfl
@[simp] theorem restartPulseClock_tickPhase (s : State) : (restartPulseClock s).tickPhase = s.tickPhase := rfl
@[simp] theorem restartPulseClock_schedArmed (s : State) : (restartPulseClock s).schedArmed = s.schedArmed := rfl
@[simp] theorem restartPulseClock_schedIntervalMs (s : State) : (restartPulseClock s).schedIntervalMs = s.schedIntervalMs := rfl
@[simp] theorem restartPulseClock_lineConfigured (s : State) : (restartPulseClock s).lineConfigured = s.lineConfigured := rfl
@[simp] theorem restartPulseClock_edgeCbRegistered (s : State) : (restartPulseClock s).edgeCbRegistered = s.edgeCbRegistered := rfl
@[simp] theorem restartPulseClock_out (s : State) : (restartPulseClock s).out = s.out := rfl
@[simp] theorem restartPulseClock_nec (s : State) : (restartPulseClock s).nec = s.nec := rfl
@[simp] theorem restartPulseClock_pclkAge (s : State) : (restartPulseClock s).pclkAge = 0 := rfl
@[simp] theorem restartPulseClock_iclkAge (s : State) : (restartPulseClock s).iclkAge = s.iclkAge := rfl
@[simp] theorem restartPulseClock_results (s : State) : (restartPulseClock s).results = s.results := rfl
@[simp] theorem restartPulseClock_draws (s : State) : (restartPulseClock s).draws = s.draws := rfl
@[simp] theorem restartPulseClock_port (s : State) : (restartPulseClock s).port = s.port := rfl

/-! `edgeReleaseEffect` -/

@[simp] theorem edgeReleaseEffect_params (s : State) : (edgeReleaseEffect s).params = s.params := rfl
@[simp] theorem edgeReleaseEffect_now (s : State) : (edgeReleaseEffect s).now = s.now := rfl
@[simp] theorem edgeReleaseEffect_line (s : State) : (edgeReleaseEffect s).line = s.line := rfl
@[simp] theorem edgeReleaseEffect_runState (s : State) : (edgeReleaseEffect s).runState = s.runState := rfl
@[simp] theorem edgeReleaseEffect_faultCode (s : State) : (edgeReleaseEffect s).faultCode = s.faultCode := rfl
@[simp] theorem edgeReleaseEffect_pclk (s : State) : (edgeReleaseEffect s).pclk = s.pclk := rfl
@[simp] theorem edgeReleaseEffect_iclk (s : State) : (edgeReleaseEffect s).iclk = s.iclk := rfl
@[simp] theorem edgeReleaseEffect_buf (s : State) : (edgeReleaseEffect s).buf = s.buf := rfl
@[simp] theorem edgeReleaseEffect_guard (s : State) : (edgeReleaseEffect s).guard = s.guard := rfl
@[simp] theorem edgeReleaseEffect_lock (s : State) : (edgeReleaseEffect s).lock = .free := rfl
@[simp] theorem edgeReleaseEffect_edgePhase (s : State) : (edgeReleaseEffect s).edgePhase = .released := rfl
@[simp] theorem edgeReleaseEffect_tickPhase (s : State) : (edgeReleaseEffect s).tickPhase = s.tickPhase := rfl
@[simp] theorem edgeReleaseEffect_schedArmed (s : State) : (edgeReleaseEffect s).schedArmed = s.schedArmed := rfl
@[simp] theorem edgeReleaseEffect_schedIntervalMs (s : State) : (edgeReleaseEffect s).schedIntervalMs = s.schedIntervalMs := rfl
@[simp] theorem edgeReleaseEffect_lineConfigured (s : State) : (edgeReleaseEffect s).lineConfigured = s.lineConfigured := rfl
@[simp] theorem edgeReleaseEffect_edgeCbRegistered (s : State) : (edgeReleaseEffect s).edgeCbRegistered = s.edgeCbRegistered := rfl
@[simp] theorem edgeReleaseEffect_out (s : State) : (edgeReleaseEffect s).out = s.out := rfl
@[simp] theorem edgeReleaseEffect_nec (s : State) : (edgeReleaseEffect s).nec = s.nec := rfl
@[simp] theorem edgeReleaseEffect_pclkAge (s : State) : (edgeReleaseEffect s).pclkAge = s.pclkAge := rfl
@[simp] theorem edgeReleaseEffect_iclkAge (s : State) : (edgeReleaseEffect s).iclkAge = s.iclkAge := rfl
@[simp] theorem edgeReleaseEffect_results (s : State) : (edgeReleaseEffect s).results = s.results := rfl
@[simp] theorem edgeReleaseEffect_draws (s : State) : (edgeReleaseEffect s).draws = s.draws := rfl
@[simp] theorem edgeReleaseEffect_port (s : State) : (edgeReleaseEffect s).port = s.port := rfl

/-! `unguardEffect` -/

@[simp] theorem unguardEffect_params (s : State) : (unguardEffect s).params = s.params := rfl
@[simp] theorem unguardEffect_now (s : State) : (unguardEffect s).now = s.now := rfl
@[simp] theorem unguardEffect_line (s : State) : (unguardEffect s).line = s.line := rfl
@[simp] theorem unguardEffect_runState (s : State) : (unguardEffect s).runState = s.runState := rfl
@[simp] theorem unguardEffect_faultCode (s : State) : (unguardEffect s).faultCode = s.faultCode := rfl
@[simp] theorem unguardEffect_pclk (s : State) : (unguardEffect s).pclk = s.pclk := rfl
@[simp] theorem unguardEffect_iclk (s : State) : (unguardEffect s).iclk = s.iclk := rfl
@[simp] theorem unguardEffect_buf (s : State) : (unguardEffect s).buf = s.buf := rfl
@[simp] theorem unguardEffect_guard (s : State) : (unguardEffect s).guard = false := rfl
@[simp] theorem unguardEffect_lock (s : State) : (unguardEffect s).lock = s.lock := rfl
@[simp] theorem unguardEffect_edgePhase (s : State) : (unguardEffect s).edgePhase = .idle := rfl
@[simp] theorem unguardEffect_tickPhase (s : State) : (unguardEffect s).tickPhase = s.tickPhase := rfl
@[simp] theorem unguardEffect_schedArmed (s : State) : (unguardEffect s).schedArmed = s.schedArmed := rfl
@[simp] theorem unguardEffect_schedIntervalMs (s : State) : (unguardEffect s).schedIntervalMs = s.schedIntervalMs := rfl
@[simp] theorem unguardEffect_lineConfigured (s : State) : (unguardEffect s).lineConfigured = s.lineConfigured := rfl
@[simp] theorem unguardEffect_edgeCbRegistered (s : State) : (unguardEffect s).edgeCbRegistered = s.edgeCbRegistered := rfl
@[simp] theorem unguardEffect_out (s : State) : (unguardEffect s).out = s.out := rfl
@[simp] theorem unguardEffect_nec (s : State) : (unguardEffect s).nec = s.nec := rfl
@[simp] theorem unguardEffect_pclkAge (s : State) : (unguardEffect s).pclkAge = s.pclkAge := rfl
@[simp] theorem unguardEffect_iclkAge (s : State) : (unguardEffect s).iclkAge = s.iclkAge := rfl
@[simp] theorem unguardEffect_results (s : State) : (unguardEffect s).results = s.results := rfl
@[simp] theorem unguardEffect_draws (s : State) : (unguardEffect s).draws = s.draws := rfl
@[simp] theorem unguardEffect_port (s : State) : (unguardEffect s).port = s.port := rfl

/-! `tickAcquireEffect` -/

@[simp] theorem tickAcquireEffect_params (s : State) : (tickAcquireEffect s).params = s.params := rfl
@[simp] theorem tickAcquireEffect_now (s : State) : (tickAcquireEffect s).now = s.now := rfl
@[simp] theorem tickAcquireEffect_line (s : State) : (tickAcquireEffect s).line = s.line := rfl
@[simp] theorem tickAcquireEffect_runState (s : State) : (tickAcquireEffect s).runState = s.runState := rfl
@[simp] theorem tickAcquireEffect_faultCode (s : State) : (tickAcquireEffect s).faultCode = s.faultCode := rfl
@[simp] theorem tickAcquireEffect_pclk (s : State) : (tickAcquireEffect s).pclk = s.pclk := rfl
@[simp] theorem tickAcquireEffect_iclk (s : State) : (tickAcquireEffect s).iclk = s.iclk := rfl
@[simp] theorem tickAcquireEffect_buf (s : State) : (tickAcquireEffect s).buf = s.buf := rfl
@[simp] theorem tickAcquireEffect_guard (s : State) : (tickAcquireEffect s).guard = s.guard := rfl
@[simp] theorem tickAcquireEffect_lock (s : State) : (tickAcquireEffect s).lock = .tick := rfl
@[simp] theorem tickAcquireEffect_edgePhase (s : State) : (tickAcquireEffect s).edgePhase = s.edgePhase := rfl
@[simp] theorem tickAcquireEffect_tickPhase (s : State) : (tickAcquireEffect s).tickPhase = .locked := rfl
@[simp] theorem tickAcquireEffect_schedArmed (s : State) : (tickAcquireEffect s).schedArmed = s.schedArmed := rfl
@[simp] theorem tickAcquireEffect_schedIntervalMs (s : State) : (tickAcquireEffect s).schedIntervalMs = s.schedIntervalMs := rfl
@[simp] theorem tickAcquireEffect_lineConfigured (s : State) : (tickAcquireEffect s).lineConfigured = s.lineConfigured := rfl
@[simp] theorem tickAcquireEffect_edgeCbRegistered (s : State) : (tickAcquireEffect s).edgeCbRegistered = s.edgeCbRegistered := rfl
@[simp] theorem tickAcquireEffect_out (s : State) : (tickAcquireEffect s).out = s.out := rfl
@[simp] theorem tickAcquireEffect_nec (s : State) : (tickAcquireEffect s).nec = s.nec := rfl
@[simp] theorem tickAcquireEffect_pclkAge (s : State) : (tickAcquireEffect s).pclkAge = s.pclkAge := rfl
@[simp] theorem tickAcquireEffect_iclkAge (s : State) : (tickAcquireEffect s).iclkAge = s.iclkAge := rfl
@[simp] theorem tickAcquireEffect_results (s : State) : (tickAcquireEffect s).results = s.results := rfl
@[simp] theorem tickAcquireEffect_draws (s : State) : (tickAcquireEffect s).draws = s.draws := rfl
@[simp] theorem tickAcquireEffect_port (s : State) : (tickAcquireEffect s).port = s.port := rfl

/-! `tickReleaseEffect` -/

@[simp] theorem tickReleaseEffect_params (s : State) : (tickReleaseEffect s).params = s.params := rfl
@[simp] theorem tickReleaseEffect_now (s : State) : (tickReleaseEffect s).now = s.now := rfl
@[simp] theorem tickReleaseEffect_line (s : State) : (tickReleaseEffect s).line = s.line := rfl
@[simp] theorem tickReleaseEffect_runState (s : State) : (tickReleaseEffect s).runState = s.runState := rfl
@[simp] theorem tickReleaseEffect_faultCode (s : State) : (tickReleaseEffect s).faultCode = s.faultCode := rfl
@[simp] theorem tickReleaseEffect_pclk (s : State) : (tickReleaseEffect s).pclk = s.pclk := rfl
@[simp] theorem tickReleaseEffect_iclk (s : State) : (tickReleaseEffect s).iclk = s.iclk := rfl
@[simp] theorem tickReleaseEffect_buf (s : State) : (tickReleaseEffect s).buf = s.buf := rfl
@[simp] theorem tickReleaseEffect_guard (s : State) : (tickReleaseEffect s).guard = s.guard := rfl
@[simp] theorem tickReleaseEffect_lock (s : State) : (tickReleaseEffect s).lock = .free := rfl
@[simp] theorem tickReleaseEffect_edgePhase (s : State) : (tickReleaseEffect s).edgePhase = s.edgePhase := rfl
@[simp] theorem tickReleaseEffect_tickPhase (s : State) : (tickReleaseEffect s).tickPhase = .idle := rfl
@[simp] theorem tickReleaseEffect_schedArmed (s : State) : (tickReleaseEffect s).schedArmed = s.schedArmed := rfl
@[simp] theorem tickReleaseEffect_schedIntervalMs (s : State) : (tickReleaseEffect s).schedIntervalMs = s.schedIntervalMs := rfl
@[simp] theorem tickReleaseEffect_lineConfigured (s : State) : (tickReleaseEffect s).lineConfigured = s.lineConfigured := rfl
@[simp] theorem tickReleaseEffect_edgeCbRegistered (s : State) : (tickReleaseEffect s).edgeCbRegistered = s.edgeCbRegistered := rfl
@[simp] theorem tickReleaseEffect_out (s : State) : (tickReleaseEffect s).out = s.out := rfl
@[simp] theorem tickReleaseEffect_nec (s : State) : (tickReleaseEffect s).nec = s.nec := rfl
@[simp] theorem tickReleaseEffect_pclkAge (s : State) : (tickReleaseEffect s).pclkAge = s.pclkAge := rfl
@[simp] theorem tickReleaseEffect_iclkAge (s : State) : (tickReleaseEffect s).iclkAge = s.iclkAge := rfl
@[simp] theorem tickReleaseEffect_results (s : State) : (tickReleaseEffect s).results = s.results := rfl
@[simp] theorem tickReleaseEffect_draws (s : State) : (tickReleaseEffect s).draws = s.draws := rfl
@[simp] theorem tickReleaseEffect_port (s : State) : (tickReleaseEffect s).port = s.port := rfl

/-! `finishCall` -/

@[simp] theorem finishCall_params (r : CallResult) (s : State) : (finishCall r s).params = s.params := rfl
@[simp] theorem finishCall_now (r : CallResult) (s : State) : (finishCall r s).now = s.now := rfl
@[simp] theorem finishCall_line (r : CallResult) (s : State) : (finishCall r s).line = s.line := rfl
@[simp] theorem finishCall_runState (r : CallResult) (s : State) : (finishCall r s).runState = s.runState := rfl
@[simp] theorem finishCall_faultCode (r : CallResult) (s : State) : (finishCall r s).faultCode = s.faultCode := rfl
@[simp] theorem finishCall_pclk (r : CallResult) (s : State) : (finishCall r s).pclk = s.pclk := rfl
@[simp] theorem finishCall_iclk (r : CallResult) (s : State) : (finishCall r s).iclk = s.iclk := rfl
@[simp] theorem finishCall_buf (r : CallResult) (s : State) : (finishCall r s).buf = s.buf := rfl
@[simp] theorem finishCall_guard (r : CallResult) (s : State) : (finishCall r s).guard = s.guard := rfl
@[simp] theorem finishCall_lock (r : CallResult) (s : State) : (finishCall r s).lock = s.lock := rfl
@[simp] theorem finishCall_edgePhase (r : CallResult) (s : State) : (finishCall r s).edgePhase = s.edgePhase := rfl
@[simp] theorem finishCall_tickPhase (r : CallResult) (s : State) : (finishCall r s).tickPhase = s.tickPhase := rfl
@[simp] theorem finishCall_schedArmed (r : CallResult) (s : State) : (finishCall r s).schedArmed = s.schedArmed := rfl
@[simp] theorem finishCall_schedIntervalMs (r : CallResult) (s : State) : (finishCall r s).schedIntervalMs = s.schedIntervalMs := rfl
@[simp] theorem finishCall_lineConfigured (r : CallResult) (s : State) : (finishCall r s).lineConfigured = s.lineConfigured := rfl
@[simp] theorem finishCall_edgeCbRegistered (r : CallResult) (s : State) : (finishCall r s).edgeCbRegistered = s.edgeCbRegistered := rfl
@[simp] theorem finishCall_out (r : CallResult) (s : State) : (finishCall r s).out = s.out := rfl
@[simp] theorem finishCall_nec (r : CallResult) (s : State) : (finishCall r s).nec = drawnNecRegs s.draws := rfl
@[simp] theorem finishCall_pclkAge (r : CallResult) (s : State) : (finishCall r s).pclkAge = s.pclkAge := rfl
@[simp] theorem finishCall_iclkAge (r : CallResult) (s : State) : (finishCall r s).iclkAge = s.iclkAge := rfl
@[simp] theorem finishCall_results (r : CallResult) (s : State) : (finishCall r s).results = s.results ++ [r] := rfl
@[simp] theorem finishCall_draws (r : CallResult) (s : State) : (finishCall r s).draws = s.draws + 1 := rfl
@[simp] theorem finishCall_port (r : CallResult) (s : State) : (finishCall r s).port = s.port := rfl

end Sys2Proof.Machine
end

