-- ==== Sys2Proof/Laws/Ops.lean ====
section
/-! SUPPORT. What the shared operations can do, said once: outcome sequencing, enabling, the append and flush of a body, the fault
entry, the fetch. Later proofs cite these instead of unfolding. -/

namespace Sys2Proof.Machine

/-! Outcomes. -/

@[simp] theorem andThen_next (s : State) (k : State → Result) : andThen (.next s) k = k s := rfl

@[simp] theorem andThen_fault (r : Fault) (k : State → Result) : andThen (.fault r) k = .fault r := rfl

@[simp] theorem andThen_refused (r : Refusal) (k : State → Result) : andThen (.refused r) k = .refused r := rfl

/-- A sequence answers a next state exactly when both parts do. -/
theorem andThen_eq_next {o : Result} {k : State → Result} {t : State} :
    andThen o k = .next t ↔ ∃ s, o = .next s ∧ k s = .next t := by
  cases o <;> simp

/-- A guarded step answers a next state exactly outside `FAULT`, where it is enabled and its effect answers one. -/
theorem whenEnabled_eq_next {m : String} {can : Prop} [Decidable can] {s : State} {e : Result} {t : State} :
    whenEnabled m can s e = .next t ↔ s.runState ≠ .fault ∧ can ∧ e = .next t := by
  unfold whenEnabled
  split
  · simp_all
  · split <;> simp_all

/-- Where it is enabled, a guarded step is its effect. -/
theorem whenEnabled_enabled {m : String} {can : Prop} [Decidable can] {s : State} {e : Result}
    (hr : s.runState ≠ .fault) (hc : can) : whenEnabled m can s e = e := by
  simp [whenEnabled, hr, hc]

/-- In `FAULT` a guarded step is stuck. -/
theorem whenEnabled_inFault {m : String} {can : Prop} [Decidable can] {s : State} {e : Result}
    (hr : s.runState = .fault) : whenEnabled m can s e = .fault (.stuckInFault m) := by
  simp [whenEnabled, hr]

/-- Where it is not enabled, a guarded step does not exist. -/
theorem whenEnabled_disabled {m : String} {can : Prop} [Decidable can] {s : State} {e : Result}
    (hr : s.runState ≠ .fault) (hc : ¬ can) : whenEnabled m can s e = .refused (.notEnabled m) := by
  simp [whenEnabled, hr, hc]

/-! The state accessors. -/

/-- The count is the length of the valid part of the buffer. -/
theorem count_eq (s : State) : s.count = s.buf.length := rfl

/-! START. -/

/-- `START` does one of three things. -/
theorem startEffect_cases (m : Bool) (s : State) :
    (s.runState ≠ .reset ∧ startEffect m s = raiseFault .doubleStart s) ∨
    (s.runState = .reset ∧ m = true ∧ startEffect m s = startAccepted (emit (.lineSetMode true true) s)) ∨
    (s.runState = .reset ∧ m = false ∧ startEffect m s = raiseFault .lineMode (emit (.lineSetMode true true) s)) := by
  cases m <;> by_cases h : s.runState = .reset <;> simp [startEffect, h]

/-! The edge body. -/

/-- The state in which an edge body records its pulse: both clocks restarted, the scheduler rearmed. -/
def measuredState (s : State) : State := restartPulseClock (rearm s)

/-- An append leaves room or fills the buffer; a gap pulse changes at most the history. -/
theorem recordPulse_cases {p : Pulse} {s t : State} (h : recordPulse p s = .next t) :
    (Accepted s.params p.duration ∧ HasRoom s ∧ t = emit (.pulse p.level p.duration) (bufAppend p s)) ∨
    (¬ Accepted s.params p.duration ∧ s.params.reportGapPulse = true ∧ t = emit (.pulse p.level p.duration) s) ∨
    (¬ Accepted s.params p.duration ∧ s.params.reportGapPulse = false ∧ t = s) := by
  unfold recordPulse at h
  split at h
  · split at h <;> simp_all
  · split at h <;> simp_all

/-- Everything an edge body that completes can do: append below capacity, append and overflow, or drop a gap pulse (and then,
only in states no run reaches, overflow). -/
theorem edgeBodyEffect_cases {s t : State} (h : edgeBodyEffect s = .next t) :
    ∃ u, recordPulse (constructedPulse s) (measuredState s) = .next u ∧
      t = { overflowCheck u with edgePhase := .done } := by
  obtain ⟨u, hu, ht⟩ := andThen_eq_next.mp h
  exact ⟨u, hu, by simpa using ht.symm⟩

/-- An edge body stops only when an accepted pulse meets a full buffer. -/
theorem edgeBodyEffect_completes {s : State} (h : HasRoom s) : ∃ t, edgeBodyEffect s = .next t := by
  have hr : HasRoom (restartPulseClock (rearm s)) := h
  unfold edgeBodyEffect recordPulse
  rw [if_pos hr]
  split
  · exact ⟨_, rfl⟩
  · split <;> exact ⟨_, rfl⟩

/-- `E_BODY` answers a next state exactly where the pulse clock can be read and the body answers it. -/
theorem edgeBody_eq_next {s t : State} : edgeBody s = .next t ↔ PulseClockReadable s ∧ edgeBodyEffect s = .next t := by
  unfold edgeBody
  split <;> simp_all

/-- Where the pulse clock can be read `E_BODY` is its body. -/
theorem edgeBody_readable {s : State} (h : PulseClockReadable s) : edgeBody s = edgeBodyEffect s := if_pos h

/-- A pulse clock that has overrun cannot be read. -/
theorem edgeBody_overrun {s : State} (h : ¬ PulseClockReadable s) : edgeBody s = .refused .clockOverrun := if_neg h

/-! The tick body. -/

/-- `T_BODY` answers a next state exactly where the idle clock is stopped or can be read. -/
theorem tickBody_eq_next {s t : State} : tickBody s = .next t ↔ IdleClockReadable s ∧ t = tickBodyEffect s := by
  unfold tickBody
  split <;> simp_all [eq_comm (a := t)]

/-- Where the idle clock is stopped or can be read `T_BODY` is its body. -/
theorem tickBody_readable {s : State} (h : IdleClockReadable s) : tickBody s = .next (tickBodyEffect s) := if_pos h

/-- A running idle clock that has overrun cannot be read. -/
theorem tickBody_overrun {s : State} (h : ¬ IdleClockReadable s) : tickBody s = .refused .clockOverrun := if_neg h

/-- A tick body flushes or does nothing (R155). -/
theorem tickBodyEffect_cases (s : State) :
    (IdleFlushDue s ∧
      tickBodyEffect s = { flush .idle s with iclk := stoppedClock s.iclk, tickPhase := .done }) ∨
    (¬ IdleFlushDue s ∧ tickBodyEffect s = { s with tickPhase := .done }) := by
  by_cases h : IdleFlushDue s
  · exact .inl ⟨h, if_pos h⟩
  · exact .inr ⟨h, if_neg h⟩

/-- `T_CHECK` is dropped, or moves to `T_WAIT` (R141). -/
theorem checkEffect_cases (s : State) :
    (s.guard = true ∧ checkEffect s = s) ∨ (s.guard = false ∧ checkEffect s = { s with tickPhase := .wait }) := by
  cases h : s.guard <;> simp [checkEffect, h]

/-! Fetch. -/

/-- What a fetch that answers has found. -/
theorem fetch_eq_ok {s s' : State} {i : Instr} :
    fetch s = .ok (i, s') ↔ s.params.Legal ∧ ∃ rest, decode s.port = .ok (i, rest) ∧ s' = { s with port := rest } := by
  unfold fetch
  by_cases hl : s.params.Legal
  · rw [if_pos hl]
    cases h : decode s.port with
    | error e => cases e <;> simp
    | ok r =>
      obtain ⟨j, rest⟩ := r
      refine ⟨fun h' => ⟨hl, rest, ?_⟩, fun ⟨_, rest', h', hs⟩ => ?_⟩ <;> simp_all
  · rw [if_neg hl]
    simp [hl]

/-- A step that answers has fetched an operation and run it. -/
theorem step_eq_next {s t : State} :
    step s = .next t ↔ ∃ i s', fetch s = .ok (i, s') ∧ exec i s' = .next t := by
  unfold step
  cases h : fetch s with
  | error r => simp
  | ok r => obtain ⟨i, s'⟩ := r; simp

end Sys2Proof.Machine
end

