-- ==== Sys2Proof/Laws/Buffer.lean ====
section
/-! SUPPORT. The buffer keeps its form: never more entries than the capacity (spec/10_state.md R31(a)), whatever buffer operation
runs, and in the state after reset. -/

namespace Sys2Proof.Machine

theorem bufWf_iff (s : State) : s.bufWf = true ↔ s.count ≤ capacity s.params := by simp [State.bufWf]

/-- `BufAppend` where it is defined keeps the form. -/
theorem bufAppend_wf (p : Pulse) {s : State} (h : HasRoom s) : (bufAppend p s).bufWf = true := by
  simp only [HasRoom, count_eq] at h
  rw [bufWf_iff]
  simp [count_eq]
  omega

/-- `BufClear` gives the form. -/
theorem bufClear_wf (s : State) : (bufClear s).bufWf = true := by simp [bufWf_iff, count_eq]

/-- A flush gives the form. -/
theorem flush_wf (r : FlushReason) (s : State) : (flush r s).bufWf = true := by simp [bufWf_iff, count_eq]

/-- The state after reset has the form, for every value of what R281 leaves unspecified. -/
theorem powerOn_wf (p : Params) (now : U64) (line : Bool) (a b : U64) (c : U32) (d : Byte) (e : Fin 33) (f : BitVec 32)
    (g : DecodeResult) : (State.powerOn p now line a b c d e f g).bufWf = true := by
  simp [bufWf_iff, count_eq, State.powerOn]

/-- An edge body that completes keeps the form, and empties a buffer it has filled. -/
theorem edgeBodyEffect_wf {s t : State} (hs : s.bufWf = true) (h : edgeBodyEffect s = .next t) : t.bufWf = true := by
  obtain ⟨u, hu, rfl⟩ := edgeBodyEffect_cases h
  rw [bufWf_iff] at hs ⊢
  have key : u.count ≤ capacity u.params ∧ u.params = s.params := by
    rcases recordPulse_cases hu with ⟨-, hr, rfl⟩ | ⟨-, -, rfl⟩ | ⟨-, -, rfl⟩
    · simp only [HasRoom, count_eq, measuredState] at hr
      simp only [count_eq, measuredState]
      simp at hr ⊢
      omega
    · exact ⟨hs, rfl⟩
    · exact ⟨hs, rfl⟩
  unfold overflowCheck
  split
  · simp [count_eq]
  · exact key.1

/-- A tick body keeps the form. -/
theorem tickBodyEffect_wf {s : State} (hs : s.bufWf = true) : (tickBodyEffect s).bufWf = true := by
  rcases tickBodyEffect_cases s with ⟨-, h⟩ | ⟨-, h⟩ <;> rw [h]
  · simp [bufWf_iff, count_eq]
  · exact hs

end Sys2Proof.Machine
end

