-- ==== Sys2Proof/Laws/Decode.lean ====
section
/-! SUPPORT. The small laws of the encoding: records, opcodes, operands. -/

namespace Sys2Proof

/-- A decoder call is well formed exactly up to 255 pulses (R63). -/
theorem wellFormed_decode (ps : List Pulse) : (Instr.decode ps).wellFormed = true ↔ ps.length ≤ 255 := decide_eq_true_iff

/-- A decoder call is well formed exactly up to 255 pulses (R63). -/
theorem wellFormed_isRepeat (ps : List Pulse) : (Instr.isRepeat ps).wellFormed = true ↔ ps.length ≤ 255 := decide_eq_true_iff

/-- A bit of a Pulse record (R91). -/
theorem recordOfPulse_getLsbD (p : Pulse) (i : Nat) :
    (recordOfPulse p).getLsbD i = if i < 64 then p.duration.getLsbD i else (BitVec.ofBool p.level).getLsbD (i - 64) :=
  BitVec.getLsbD_append (x := BitVec.ofBool p.level) (y := p.duration)

/-- A bit of an event word assembled from an opcode byte and an operand (R102). -/
theorem word_getLsbD (c : Byte) (operand : U64) (i : Nat) :
    (c ++ operand : EventWord).getLsbD i = if i < 64 then operand.getLsbD i else c.getLsbD (i - 64) :=
  BitVec.getLsbD_append (x := c) (y := operand)

/-- A record written and read is the pulse it stands for (R91). -/
@[simp] theorem pulseOfRecord_recordOfPulse (p : Pulse) : pulseOfRecord (recordOfPulse p) = p := by
  obtain ⟨l, d⟩ := p
  simp only [pulseOfRecord, Pulse.mk.injEq]
  constructor
  · rw [recordOfPulse_getLsbD]; cases l <;> simp
  · apply BitVec.eq_of_getLsbD_eq
    intro i hi
    rw [BitVec.getLsbD_extractLsb']
    simp [recordOfPulse_getLsbD, hi]

/-- A record read and written is itself: no bit of it is dropped (R91). -/
@[simp] theorem recordOfPulse_pulseOfRecord (r : PulseRecord) : recordOfPulse (pulseOfRecord r) = r := by
  apply BitVec.eq_of_getLsbD_eq
  intro i hi
  rw [recordOfPulse_getLsbD]
  split
  · rename_i h
    simp only [pulseOfRecord, BitVec.getLsbD_extractLsb']
    simp [h]
  · have : i = 64 := by omega
    subst this
    cases h : r.getLsbD 64 <;> simp only [pulseOfRecord, h] <;> rfl

/-- Records placed at the port are taken back as their pulses, and nothing else is taken. -/
theorem takeRecords_records (ps : List Pulse) (rest : List PortWord) :
    takeRecords ps.length (ps.map (fun p => .record (recordOfPulse p)) ++ rest) = some (ps, rest) := by
  induction ps with
  | nil => rfl
  | cons p ps ih => simp [takeRecords, ih]

/-- What is taken from the port is exactly as many records as asked for, and stood there. -/
theorem takeRecords_eq_some {n : Nat} {ws rest : List PortWord} {ps : List Pulse}
    (h : takeRecords n ws = some (ps, rest)) :
    ps.length = n ∧ ws = ps.map (fun p => .record (recordOfPulse p)) ++ rest := by
  induction n generalizing ws ps rest with
  | zero => simp_all [takeRecords]
  | succ n ih =>
    match ws, h with
    | .record r :: ws, h =>
      simp only [takeRecords] at h
      split at h
      · rename_i qs rest' hq
        obtain ⟨h1, h2⟩ := ih hq
        simp only [Option.some.injEq, Prod.mk.injEq] at h
        obtain ⟨rfl, rfl⟩ := h
        simp [h1, h2]
      · simp at h

/-- Every opcode is found by its byte (R103). -/
@[simp] theorem opcodeOf_code (o : Opcode) : opcodeOf o.code = some o := by cases o <;> decide

/-- A byte that is found is the opcode's own. -/
theorem opcodeOf_eq_some {b : Byte} {o : Opcode} (h : opcodeOf b = some o) : o.code = b := by
  simpa using List.find?_some h

/-- The opcode byte of an assembled word (R102). -/
@[simp] theorem opcodeByte_append (c : Byte) (operand : U64) : opcodeByte (c ++ operand) = c := by
  apply BitVec.eq_of_getLsbD_eq
  intro i hi
  simp only [opcodeByte, BitVec.getLsbD_extractLsb', hi, decide_true, Bool.true_and]
  rw [word_getLsbD, if_neg (by omega)]
  congr 1
  omega

/-- The operand of an assembled word (R102). -/
@[simp] theorem operandOf_append (c : Byte) (operand : U64) : operandOf (c ++ operand) = operand := by
  apply BitVec.eq_of_getLsbD_eq
  intro i hi
  simp only [operandOf, BitVec.getLsbD_extractLsb', hi, decide_true, Bool.true_and]
  rw [word_getLsbD, if_pos (by omega)]
  congr 1
  omega

/-- A word is its opcode byte and its operand. -/
theorem append_opcodeByte_operandOf (ew : EventWord) : (opcodeByte ew ++ operandOf ew : EventWord) = ew := by
  apply BitVec.eq_of_getLsbD_eq
  intro i hi
  rw [word_getLsbD]
  split
  · rename_i h
    simp only [operandOf, BitVec.getLsbD_extractLsb', h, decide_true, Bool.true_and]
    congr 1
    omega
  · rename_i h
    have h8 : i - 64 < 8 := by omega
    simp only [opcodeByte, BitVec.getLsbD_extractLsb', h8, decide_true, Bool.true_and]
    congr 1
    omega

@[simp] theorem opcodeByte_eventWord (i : Instr) : opcodeByte i.eventWord = i.opcode.code := opcodeByte_append _ _

@[simp] theorem operandOf_eventWord (i : Instr) : operandOf i.eventWord = i.operand := operandOf_append _ _

/-- A bool operand written and read (R107). -/
@[simp] theorem boolOperand_operandOfBool (b : Bool) : boolOperand (operandOfBool b) = b := by cases b <;> decide

/-- A bool operand sets no reserved bit (R103, layout B). -/
@[simp] theorem operandOfBool_reserved (b : Bool) : operandOfBool b &&& Format.reserved .b = 0#64 := by cases b <;> decide

/-- A bool operand read and written, where no reserved bit is set (R105). -/
theorem operandOfBool_boolOperand {x : U64} (h : x &&& Format.reserved .b = 0#64) : operandOfBool (boolOperand x) = x := by
  have hlt : x.toNat < 2 := by
    have hm : Format.reserved .b = ~~~ 1#64 := by decide
    have hx : x = x &&& 1#64 := by
      have : x = (x &&& 1#64) ||| (x &&& ~~~ 1#64) := by
        ext i hi; simp only [BitVec.getElem_or, BitVec.getElem_and, BitVec.getElem_not]
        cases x[i] <;> cases (1#64)[i] <;> rfl
      rw [hm] at h
      rw [h] at this
      simpa using this
    rw [hx, BitVec.toNat_and]
    exact Nat.lt_of_le_of_lt Nat.and_le_right (by decide)
  have hx : x = 0#64 ∨ x = 1#64 := by
    rcases Nat.lt_or_ge x.toNat 1 with h0 | h1
    · left; apply BitVec.eq_of_toNat_eq; simp; omega
    · right; apply BitVec.eq_of_toNat_eq; simp; omega
  rcases hx with rfl | rfl <;> decide

/-- The reserved bits of layout Z are clear exactly when the operand is zero (R103). -/
theorem reserved_z_iff (x : U64) : x &&& Format.reserved .z = 0#64 ↔ x = 0#64 := by
  have hm : Format.reserved .z = BitVec.allOnes 64 := by decide
  rw [hm, BitVec.and_allOnes]

/-- Layout Q has no reserved bit (R103). -/
theorem reserved_q (x : U64) : x &&& Format.reserved .q = 0#64 := BitVec.and_zero

/-- A pulse count written and read (R104). -/
theorem countOperand_ofNat {n : Nat} (h : n ≤ 255) : countOperand (BitVec.ofNat 64 n) = n := by
  simp [countOperand, BitVec.extractLsb'_toNat]
  omega

/-- The reserved bits of layout L are clear exactly when the operand is its own count (R103). -/
theorem reserved_l_iff (x : U64) : x &&& Format.reserved .l = 0#64 ↔ x.toNat < 256 := by
  have hm : Format.reserved .l = ~~~ 255#64 := by decide
  have split : x = (x &&& 255#64) ||| (x &&& ~~~ 255#64) := by
    ext i hi; simp only [BitVec.getElem_or, BitVec.getElem_and, BitVec.getElem_not]
    cases x[i] <;> cases (255#64)[i] <;> rfl
  constructor
  · intro h
    rw [hm] at h
    rw [h] at split
    rw [split]
    simp only [BitVec.or_zero, BitVec.toNat_and]
    exact Nat.lt_of_le_of_lt Nat.and_le_right (by decide)
  · intro h
    have hmod : x &&& 255#64 = x := by
      apply BitVec.eq_of_toNat_eq
      rw [BitVec.toNat_and]
      have := Nat.and_two_pow_sub_one_eq_mod x.toNat 8
      simpa [Nat.mod_eq_of_lt h] using this
    rw [hm]
    ext i hi
    have h' : (x &&& 255#64)[i] = x[i] := by rw [hmod]
    simp only [BitVec.getElem_and] at h'
    simp only [BitVec.getElem_and, BitVec.getElem_not, BitVec.getElem_zero]
    revert h'
    generalize x[i] = a
    generalize (255#64)[i] = b
    revert a b
    decide

/-- A pulse count sets no reserved bit (R103, layout L). -/
theorem ofNat_reserved {n : Nat} (h : n ≤ 255) : BitVec.ofNat 64 n &&& Format.reserved .l = 0#64 := by
  rw [reserved_l_iff]
  simp
  omega

/-- A count operand read and written, where no reserved bit is set (R105). -/
theorem ofNat_countOperand {x : U64} (h : x &&& Format.reserved .l = 0#64) :
    BitVec.ofNat 64 (countOperand x) = x ∧ countOperand x ≤ 255 := by
  rw [reserved_l_iff] at h
  have hc : countOperand x = x.toNat := by
    simp [countOperand, BitVec.extractLsb'_toNat]
    omega
  rw [hc]
  exact ⟨by simp, by omega⟩

end Sys2Proof
end

