-- ==== Sys2Proof/Laws/Exec.lean ====
section
/-! SUPPORT. When each operation answers a next state, and which: one inversion lemma per constructor of `Instr`, and what a body
that completes leaves. -/

namespace Sys2Proof.Machine

/-! The bodies in closed form. -/

/-- What every edge body that completes leaves, but for the buffer and the events after `SchedRearm`. -/
def bodyState (s : State) (b : List Pulse) (es : List Event) : State :=
  { s with
    iclk := startedClock s.now, pclk := { running := s.pclk.running, start := s.now }, pclkAge := 0, iclkAge := 0
    schedIntervalMs := s.params.idleCheckIntervalMs
    buf := b, out := s.out ++ .schedRearm s.params.idleCheckIntervalMs :: es, edgePhase := .done }

theorem overflowCheck_full {s : State} (h : s.count = capacity s.params) : overflowCheck s = flush .overflow s := if_pos h

theorem overflowCheck_not_full {s : State} (h : s.count ≠ capacity s.params) : overflowCheck s = s := if_neg h

/-- The events of a gap pulse (R139). -/
def gapEvents (s : State) : List Event :=
  if s.params.reportGapPulse then [.pulse s.line (constructedPulse s).duration] else []

/-- An accepted pulse that leaves room is appended (R138). -/
theorem edgeBodyEffect_append {s : State} (ha : Accepted s.params (constructedPulse s).duration) (hr : HasRoom s)
    (hc : s.count + 1 ≠ capacity s.params) :
    edgeBodyEffect s =
      .next (bodyState s (s.buf ++ [constructedPulse s]) [.pulse s.line (constructedPulse s).duration]) := by
  have hr' : HasRoom (restartPulseClock (rearm s)) := hr
  have ha' : Accepted (restartPulseClock (rearm s)).params (constructedPulse s).duration := ha
  simp only [edgeBodyEffect, recordPulse, if_pos ha', if_pos hr', andThen_next]
  rw [overflowCheck_not_full (by simpa [count_eq] using hc)]
  simp [bodyState, emit, bufAppend, restartPulseClock, rearm, constructedPulse]

/-- An accepted pulse that reaches the capacity is the last of an Overflow flush (R140). -/
theorem edgeBodyEffect_overflow {s : State} (ha : Accepted s.params (constructedPulse s).duration) (hr : HasRoom s)
    (hc : s.count + 1 = capacity s.params) :
    edgeBodyEffect s =
      .next (bodyState s [] [.pulse s.line (constructedPulse s).duration,
        .flush (s.buf ++ [constructedPulse s]) .overflow (trainDuration (s.buf ++ [constructedPulse s]))]) := by
  have hr' : HasRoom (restartPulseClock (rearm s)) := hr
  have ha' : Accepted (restartPulseClock (rearm s)).params (constructedPulse s).duration := ha
  simp only [edgeBodyEffect, recordPulse, if_pos ha', if_pos hr', andThen_next]
  rw [overflowCheck_full (by simpa [count_eq] using hc)]
  simp [bodyState, emit, bufAppend, restartPulseClock, rearm, constructedPulse, flush, bufClear, bufSnapshot]

/-- A gap pulse is not appended (R138, R139). -/
theorem edgeBodyEffect_gap {s : State} (ha : ¬ Accepted s.params (constructedPulse s).duration)
    (hc : s.count ≠ capacity s.params) :
    edgeBodyEffect s = .next (bodyState s s.buf (gapEvents s)) := by
  have ha' : ¬ Accepted (restartPulseClock (rearm s)).params (constructedPulse s).duration := ha
  have hg' : (restartPulseClock (rearm s)).params.reportGapPulse = s.params.reportGapPulse := rfl
  simp only [edgeBodyEffect, recordPulse, if_neg ha', gapEvents, hg']
  cases hg : s.params.reportGapPulse <;> simp only [Bool.false_eq_true, if_false, if_true, andThen_next] <;>
    rw [overflowCheck_not_full (by simpa [count_eq] using hc)] <;>
    simp [bodyState, emit, restartPulseClock, rearm, constructedPulse]

/-- A gap pulse at capacity, in states no run reaches, still flushes. -/
theorem edgeBodyEffect_gap_full {s : State} (ha : ¬ Accepted s.params (constructedPulse s).duration)
    (hc : s.count = capacity s.params) :
    edgeBodyEffect s = .next (bodyState s [] (gapEvents s ++ [.flush s.buf .overflow (trainDuration s.buf)])) := by
  have ha' : ¬ Accepted (restartPulseClock (rearm s)).params (constructedPulse s).duration := ha
  have hg' : (restartPulseClock (rearm s)).params.reportGapPulse = s.params.reportGapPulse := rfl
  simp only [edgeBodyEffect, recordPulse, if_neg ha', gapEvents, hg']
  cases hg : s.params.reportGapPulse <;> simp only [Bool.false_eq_true, if_false, if_true, andThen_next] <;>
    rw [overflowCheck_full (by simpa [count_eq] using hc)] <;>
    simp [bodyState, emit, restartPulseClock, rearm, constructedPulse, flush, bufClear, bufSnapshot]

/-- An accepted pulse and no room: `BufAppend` is undefined. -/
theorem edgeBodyEffect_undefined {s : State} (ha : Accepted s.params (constructedPulse s).duration) (hr : ¬ HasRoom s) :
    edgeBodyEffect s = .fault .bufAppendUndefined := by
  have hr' : ¬ HasRoom (restartPulseClock (rearm s)) := hr
  have ha' : Accepted (restartPulseClock (rearm s)).params (constructedPulse s).duration := ha
  simp only [edgeBodyEffect, recordPulse, if_pos ha', if_neg hr', andThen_fault]

/-- Every edge body that completes leaves `bodyState` for one of four buffers and event lists. -/
theorem edgeBodyEffect_inv {s t : State} (h : edgeBodyEffect s = .next t) :
    ∃ b es, t = bodyState s b es ∧
      ((Accepted s.params (constructedPulse s).duration ∧ s.count + 1 < capacity s.params ∧
          b = s.buf ++ [constructedPulse s] ∧ es = [.pulse s.line (constructedPulse s).duration]) ∨
       (Accepted s.params (constructedPulse s).duration ∧ s.count + 1 = capacity s.params ∧ b = [] ∧
          es = [.pulse s.line (constructedPulse s).duration,
            .flush (s.buf ++ [constructedPulse s]) .overflow (trainDuration (s.buf ++ [constructedPulse s]))]) ∨
       (¬ Accepted s.params (constructedPulse s).duration ∧ s.count ≠ capacity s.params ∧ b = s.buf ∧ es = gapEvents s) ∨
       (¬ Accepted s.params (constructedPulse s).duration ∧ s.count = capacity s.params ∧ b = [] ∧
          es = gapEvents s ++ [.flush s.buf .overflow (trainDuration s.buf)])) := by
  by_cases ha : Accepted s.params (constructedPulse s).duration
  · by_cases hr : HasRoom s
    · by_cases hc : s.count + 1 = capacity s.params
      · rw [edgeBodyEffect_overflow ha hr hc] at h
        cases h
        exact ⟨_, _, rfl, .inr (.inl ⟨ha, hc, rfl, rfl⟩)⟩
      · rw [edgeBodyEffect_append ha hr hc] at h
        cases h
        have : s.count < capacity s.params := hr
        exact ⟨_, _, rfl, .inl ⟨ha, by omega, rfl, rfl⟩⟩
    · rw [edgeBodyEffect_undefined ha hr] at h
      cases h
  · by_cases hc : s.count = capacity s.params
    · rw [edgeBodyEffect_gap_full ha hc] at h
      cases h
      exact ⟨_, _, rfl, .inr (.inr (.inr ⟨ha, hc, rfl, rfl⟩))⟩
    · rw [edgeBodyEffect_gap ha hc] at h
      cases h
      exact ⟨_, _, rfl, .inr (.inr (.inl ⟨ha, hc, rfl, rfl⟩))⟩

/-- An edge body that is run is never refused. -/
theorem edgeBodyEffect_ne_refused {s : State} {r : Refusal} : edgeBodyEffect s ≠ .refused r := by
  intro h
  by_cases ha : Accepted s.params (constructedPulse s).duration
  · by_cases hr : HasRoom s
    · obtain ⟨t, ht⟩ := edgeBodyEffect_completes hr
      simp [ht] at h
    · simp [edgeBodyEffect_undefined ha hr] at h
  · by_cases hc : s.count = capacity s.params
    · simp [edgeBodyEffect_gap_full ha hc] at h
    · simp [edgeBodyEffect_gap ha hc] at h

/-! One inversion lemma per operation. -/

theorem exec_start_next {m : Bool} {s t : State} :
    exec (.start m) s = .next t ↔ s.runState ≠ .fault ∧ t = startEffect m s := by
  simp only [exec, execStart, whenEnabled_eq_next, true_and, Host.Outcome.next.injEq, eq_comm (a := t)]

theorem exec_stop_next {s t : State} : exec .stop s = .next t ↔ CanStop s ∧ t = stopEffect s := by
  simp only [exec, execStop, whenEnabled_eq_next, Host.Outcome.next.injEq, CanStop]
  constructor
  · rintro ⟨-, h, rfl⟩; exact ⟨h, rfl⟩
  · rintro ⟨h, rfl⟩; exact ⟨by simp [h.1], h, rfl⟩

theorem exec_adv_next {dt : U64} {s t : State} : exec (.adv dt) s = .next t ↔ t = advance dt s := by
  simp only [exec, execAdv, Host.Outcome.next.injEq, eq_comm (a := t)]

theorem exec_edge_next {lvl : Bool} {s t : State} :
    exec (.edge lvl) s = .next t ↔ CanEdge s ∧ PulseClockReadable s ∧ ∃ u, edgeBodyEffect (edgeAcquireEffect (guardEffect lvl s)) = .next u ∧
      t = unguardEffect (edgeReleaseEffect u) := by
  simp only [exec, execEdge, whenEnabled_eq_next, andThen_eq_next, edgeBody_eq_next, Host.Outcome.next.injEq, CanEdge, CanGuard]
  constructor
  · rintro ⟨-, h, u, ⟨hp, hu⟩, rfl⟩; exact ⟨h, hp, u, hu, rfl⟩
  · rintro ⟨h, hp, u, hu, rfl⟩; exact ⟨by simp [h.1.1], h, u, ⟨hp, hu⟩, rfl⟩

theorem exec_tick_next {s t : State} :
    exec .tick s = .next t ↔ CanCheck s ∧
      ((s.guard = true ∧ t = s) ∨
       (s.guard = false ∧ s.lock = .free ∧ IdleClockReadable s ∧
          t = tickReleaseEffect (tickBodyEffect (tickAcquireEffect { s with tickPhase := .wait })))) := by
  simp only [exec, execTick, whenEnabled_eq_next, CanCheck]
  cases hg : s.guard
  · simp only [Bool.false_eq_true, if_false, whenEnabled_eq_next, checkEffect, hg, CanTickAcquire, true_and, false_and,
      false_or, andThen_eq_next, tickBody_eq_next, Host.Outcome.next.injEq]
    constructor
    · rintro ⟨-, h, -, hl, _, ⟨hi, rfl⟩, rfl⟩; exact ⟨h, hl, hi, rfl⟩
    · rintro ⟨h, hl, hi, rfl⟩; exact ⟨by simp [h.1], h, by simp [h.1], hl, _, ⟨hi, rfl⟩, rfl⟩
  · simp only [if_true, checkEffect, hg, Host.Outcome.next.injEq, true_and, Bool.true_eq_false, false_and, or_false]
    constructor
    · rintro ⟨-, h, rfl⟩; exact ⟨h, rfl⟩
    · rintro ⟨h, rfl⟩; exact ⟨by simp [h.1], h, rfl⟩

theorem exec_eGuard_next {lvl : Bool} {s t : State} :
    exec (.eGuard lvl) s = .next t ↔ CanGuard s ∧ t = guardEffect lvl s := by
  simp only [exec, execEGuard, whenEnabled_eq_next, Host.Outcome.next.injEq, CanGuard]
  constructor
  · rintro ⟨-, h, rfl⟩; exact ⟨h, rfl⟩
  · rintro ⟨h, rfl⟩; exact ⟨by simp [h.1], h, rfl⟩

theorem exec_eAcq_next {s t : State} :
    exec .eAcq s = .next t ↔ s.runState ≠ .fault ∧ CanEdgeAcquire s ∧ t = edgeAcquireEffect s := by
  simp only [exec, execEAcq, whenEnabled_eq_next, Host.Outcome.next.injEq, eq_comm (a := t)]

theorem exec_eBody_next {s t : State} :
    exec .eBody s = .next t ↔ s.runState ≠ .fault ∧ CanEdgeBody s ∧ PulseClockReadable s ∧ edgeBodyEffect s = .next t := by
  simp only [exec, execEBody, whenEnabled_eq_next, edgeBody_eq_next]

theorem exec_eRel_next {s t : State} :
    exec .eRel s = .next t ↔ s.runState ≠ .fault ∧ CanEdgeRelease s ∧ t = edgeReleaseEffect s := by
  simp only [exec, execERel, whenEnabled_eq_next, Host.Outcome.next.injEq, eq_comm (a := t)]

theorem exec_eUnguard_next {s t : State} :
    exec .eUnguard s = .next t ↔ s.runState ≠ .fault ∧ CanUnguard s ∧ t = unguardEffect s := by
  simp only [exec, execEUnguard, whenEnabled_eq_next, Host.Outcome.next.injEq, eq_comm (a := t)]

theorem exec_tCheck_next {s t : State} : exec .tCheck s = .next t ↔ CanCheck s ∧ t = checkEffect s := by
  simp only [exec, execTCheck, whenEnabled_eq_next, Host.Outcome.next.injEq, CanCheck]
  constructor
  · rintro ⟨-, h, rfl⟩; exact ⟨h, rfl⟩
  · rintro ⟨h, rfl⟩; exact ⟨by simp [h.1], h, rfl⟩

theorem exec_tAcq_next {s t : State} :
    exec .tAcq s = .next t ↔ s.runState ≠ .fault ∧ CanTickAcquire s ∧ t = tickAcquireEffect s := by
  simp only [exec, execTAcq, whenEnabled_eq_next, Host.Outcome.next.injEq, eq_comm (a := t)]

theorem exec_tBody_next {s t : State} :
    exec .tBody s = .next t ↔ s.runState ≠ .fault ∧ CanTickBody s ∧ IdleClockReadable s ∧ t = tickBodyEffect s := by
  simp only [exec, execTBody, whenEnabled_eq_next, tickBody_eq_next]

theorem exec_tRel_next {s t : State} :
    exec .tRel s = .next t ↔ s.runState ≠ .fault ∧ CanTickRelease s ∧ t = tickReleaseEffect s := by
  simp only [exec, execTRel, whenEnabled_eq_next, Host.Outcome.next.injEq, eq_comm (a := t)]

theorem portCall_next {m : String} {ps : List Pulse} {r : CallResult} {s t : State} :
    portCall m ps r s = .next t ↔ s.runState ≠ .fault ∧ ps.length ≤ maxPortPulses ∧ t = finishCall r s := by
  simp only [portCall, whenEnabled_eq_next, true_and]
  refine and_congr_right fun _ => ?_
  split
  · rename_i h; simp; omega
  · rename_i h; simp [eq_comm (a := t)]; omega

theorem exec_decode_next {ps : List Pulse} {s t : State} :
    exec (.decode ps) s = .next t ↔
      s.runState ≠ .fault ∧ ps.length ≤ maxPortPulses ∧ t = finishCall (.decoded (Nec.decodeTrain s.params.bitOrder ps)) s := portCall_next

theorem exec_isRepeat_next {ps : List Pulse} {s t : State} :
    exec (.isRepeat ps) s = .next t ↔
      s.runState ≠ .fault ∧ ps.length ≤ maxPortPulses ∧ t = finishCall (.isRepeat (Nec.isRepeatCode ps)) s := portCall_next

end Sys2Proof.Machine
end

