-- ==== Sys2Proof/Laws/Nec.lean ====
section
/-! SUPPORT. The small laws of the decoder: windows and classes, the scans, the pair walk, the packing of bits into bytes. -/

namespace Sys2Proof.Nec

open Sys2Proof.Machine (NecRegs DecState)

/-! Windows and classes (R190, R211). -/

/-- A window, both ends included. -/
theorem inWindow_iff {lo hi : Nat} {d : U64} : inWindow lo hi d = true ↔ lo ≤ d.toNat ∧ d.toNat ≤ hi := by
  simp [inWindow]

theorem inShort_iff {d : U64} : inShort d = true ↔ 400 ≤ d.toNat ∧ d.toNat ≤ 700 := inWindow_iff

theorem inSpace_iff {d : U64} : inSpace d = true ↔ 7200 ≤ d.toNat ∧ d.toNat ≤ 10800 := inWindow_iff

theorem inMark_iff {d : U64} : inMark d = true ↔ 3900 ≤ d.toNat ∧ d.toNat ≤ 5100 := inWindow_iff

theorem inRepeatMark_iff {d : U64} : inRepeatMark d = true ↔ 2000 ≤ d.toNat ∧ d.toNat ≤ 3000 := inWindow_iff

/-- What each class of the comparator tree stands for: the windows do not meet, so the order of the tests plays no part. -/
theorem classify_cases (d : U64) :
    (classify d = .short ∧ inShort d = true ∧ inRepeatMark d = false ∧ inMark d = false ∧ inSpace d = false) ∨
    (classify d = .rmark ∧ inShort d = false ∧ inRepeatMark d = true ∧ inMark d = false ∧ inSpace d = false) ∨
    (classify d = .mark ∧ inShort d = false ∧ inRepeatMark d = false ∧ inMark d = true ∧ inSpace d = false) ∨
    (classify d = .space ∧ inShort d = false ∧ inRepeatMark d = false ∧ inMark d = false ∧ inSpace d = true) ∨
    (classify d = .other ∧ inShort d = false ∧ inRepeatMark d = false ∧ inMark d = false ∧ inSpace d = false) := by
  have disjoint : ∀ {lo hi lo' hi'}, hi < lo' → inWindow lo hi d = true → inWindow lo' hi' d = false := by
    intro lo hi lo' hi' h hw
    rw [inWindow_iff] at hw
    by_contra hc
    rw [Bool.not_eq_false, inWindow_iff] at hc
    omega
  unfold classify
  cases h1 : inShort d
  · cases h2 : inRepeatMark d
    · cases h3 : inMark d
      · cases h4 : inSpace d <;> simp
      · simp [show inSpace d = false from disjoint (by decide) h3]
    · simp [show inMark d = false from disjoint (by decide) h2, show inSpace d = false from disjoint (by decide) h2]
  · simp [show inRepeatMark d = false from disjoint (by decide) h1, show inMark d = false from disjoint (by decide) h1,
      show inSpace d = false from disjoint (by decide) h1]

theorem classify_short (d : U64) : (classify d == .short) = inShort d := by
  rcases classify_cases d with h | h | h | h | h <;> simp [h]

theorem classify_mark (d : U64) : (classify d == .mark) = inMark d := by
  rcases classify_cases d with h | h | h | h | h <;> simp [h]

theorem classify_space (d : U64) : (classify d == .space) = inSpace d := by
  rcases classify_cases d with h | h | h | h | h <;> simp [h]

/-! The scans (R193). -/

/-- `find_first` past the last pulse finds nothing. -/
theorem findFirst_none {ps : List Pulse} {c : Nat} {pred : Pulse → Bool} (h : ps.length ≤ c) :
    findFirst ps c pred = none := by
  simp [findFirst, List.drop_eq_nil_of_le h]

/-- `find_first` looks at one pulse and goes on to the next. -/
theorem findFirst_step {ps : List Pulse} {c : Nat} {pred : Pulse → Bool} (h : c < ps.length) :
    findFirst ps c pred = if pred ps[c] then some c else findFirst ps (c + 1) pred := by
  unfold findFirst
  rw [List.drop_eq_getElem_cons h, List.findIdx?_cons]
  split
  · simp
  · simp only [Option.map_map]
    congr 1
    funext k
    simp
    omega

/-- What `find_first` finds is in the list, not before the start, and has the property. -/
theorem findFirst_spec {ps : List Pulse} {c i : Nat} {pred : Pulse → Bool} (h : findFirst ps c pred = some i) :
    c ≤ i ∧ ∃ hi : i < ps.length, pred ps[i] = true := by
  by_cases hc : c < ps.length
  · induction hn : ps.length - c generalizing c with
    | zero => omega
    | succ n ih =>
      rw [findFirst_step hc] at h
      split at h
      · rename_i hp
        cases h
        exact ⟨Nat.le_refl _, hc, hp⟩
      · by_cases hc' : c + 1 < ps.length
        · obtain ⟨h1, h2⟩ := ih h hc' (by omega)
          exact ⟨by omega, h2⟩
        · rw [findFirst_none (by omega)] at h
          cases h
  · rw [findFirst_none (by omega)] at h
    cases h

/-! The pair walk (R200, R202). -/

/-- A walk with 32 bits accumulated is over. -/
theorem walkPairs_full {ps : List Pulse} {bits : List Bool} (h : 32 ≤ bits.length) : walkPairs ps bits = bits := by
  match ps with
  | [] => rfl
  | [_] => rfl
  | _ :: _ :: _ => rw [walkPairs, if_neg (by omega)]

/-- A walk below 32 bits takes one pair. -/
theorem walkPairs_pair {space mark : Pulse} {rest : List Pulse} {bits : List Bool} (h : bits.length < 32) :
    walkPairs (space :: mark :: rest) bits =
      walkPairs rest (if validPair space mark then bits ++ [markBit mark] else bits) := by
  rw [walkPairs, if_pos h]

/-- A walk gains at most one bit per two pulses and never passes 32. -/
theorem walkPairs_length (ps : List Pulse) (bits : List Bool) :
    (walkPairs ps bits).length ≤ bits.length + ps.length / 2 ∧ (bits.length ≤ 32 → (walkPairs ps bits).length ≤ 32) := by
  match ps with
  | [] => simp [walkPairs]
  | [_] => simp [walkPairs]
  | space :: mark :: rest =>
    by_cases h : bits.length < 32
    · rw [walkPairs_pair h]
      have ih := walkPairs_length rest (if validPair space mark then bits ++ [markBit mark] else bits)
      split at ih <;> simp_all <;> omega
    · rw [walkPairs_full (by omega)]
      simp

/-- A walk over valid pairs takes one bit from each mark. -/
theorem walkPairs_frame (sp : U64) (hsp : inShort sp = true) (marks : List U64) (bits : List Bool)
    (h : bits.length + marks.length ≤ 32) :
    walkPairs (marks.flatMap (fun m => [⟨true, sp⟩, ⟨false, m⟩])) bits = bits ++ marks.map (fun m => !inShort m) := by
  induction marks generalizing bits with
  | nil => simp [walkPairs]
  | cons m ms ih =>
    simp only [List.length_cons] at h
    rw [List.flatMap_cons, List.cons_append, List.cons_append, List.nil_append, walkPairs_pair (by omega),
      if_pos (by simp [validPair, isShortHigh, hsp]), ih _ (by simp; omega)]
    simp [markBit]

/-! Packing (R203). -/

/-- Bits shifted in one after another, most significant first: a bit of the result. -/
theorem foldl_shift_getLsbD {w : Nat} (bits : List Bool) (acc : BitVec w) (i : Nat) (hi : i < w) :
    (bits.foldl (fun (acc : BitVec w) b => (acc <<< 1) ||| (BitVec.ofBool b).setWidth w) acc).getLsbD i =
      if i < bits.length then bits.getD (bits.length - 1 - i) false else acc.getLsbD (i - bits.length) := by
  induction bits generalizing acc with
  | nil => simp
  | cons b bs ih =>
    rw [List.foldl_cons, ih]
    simp only [List.length_cons]
    by_cases h : i < bs.length
    · rw [if_pos h, if_pos (by omega), show bs.length + 1 - 1 - i = (bs.length - 1 - i) + 1 by omega, List.getD_cons_succ]
    · rw [if_neg h]
      by_cases h' : i = bs.length
      · subst h'
        simp [BitVec.getLsbD_setWidth, BitVec.getLsbD_shiftLeft]
        omega
      · rw [if_neg (by omega)]
        have e : i - bs.length = (i - (bs.length + 1)) + 1 := by omega
        have e' : i - (bs.length + 1) + 1 < w := by omega
        simp [e, e', BitVec.getLsbD_eq_getElem (show i - (bs.length + 1) < w by omega)]

/-- A bit of a packed byte, for either order. -/
theorem packByte_getLsbD (order : BitOrder) {bits : List Bool} (h : bits.length = 8) {i : Nat} (hi : i < 8) :
    (packByte order bits).getLsbD i = bits.getD (match order with | .msbFirst => 7 - i | .lsbFirst => i) false := by
  cases order
  · simp only [packByte]
    rw [foldl_shift_getLsbD _ _ _ hi, h, if_pos hi]
  · simp only [packByte]
    rw [List.foldr_eq_foldl_reverse, foldl_shift_getLsbD _ _ _ hi, List.length_reverse, h, if_pos hi]
    rw [List.getD_eq_getElem?_getD, List.getD_eq_getElem?_getD, List.getElem?_reverse (by omega), h]
    congr 2
    omega

/-- The two bit orders of one byte are each other's reversal. -/
theorem packByte_reverse {bits : List Bool} (h : bits.length = 8) :
    packByte .lsbFirst bits = (packByte .msbFirst bits).reverse := by
  apply BitVec.eq_of_getLsbD_eq
  intro i hi
  rw [packByte_getLsbD _ h hi, BitVec.getLsbD_reverse, BitVec.getMsbD_eq_getLsbD, packByte_getLsbD _ h (by omega)]
  simp [hi]
  congr 2
  omega

@[simp] theorem bitsOfByte_length (order : BitOrder) (b : Byte) : (bitsOfByte order b).length = 8 := by cases order <;> rfl

/-- The bits of a byte, sent and packed in the same order, are the byte. -/
@[simp] theorem packByte_bitsOfByte (order : BitOrder) (b : Byte) : packByte order (bitsOfByte order b) = b := by
  apply BitVec.eq_of_getLsbD_eq
  intro i hi
  rw [packByte_getLsbD _ (bitsOfByte_length _ _) hi]
  have : i = 0 ∨ i = 1 ∨ i = 2 ∨ i = 3 ∨ i = 4 ∨ i = 5 ∨ i = 6 ∨ i = 7 := by omega
  rcases this with rfl | rfl | rfl | rfl | rfl | rfl | rfl | rfl <;> cases order <;> rfl

/-- Four bytes sent one after another pack to themselves. -/
theorem pack_bitsOfByte (order : BitOrder) (b0 b1 b2 b3 : Byte) :
    pack order (bitsOfByte order b0 ++ bitsOfByte order b1 ++ bitsOfByte order b2 ++ bitsOfByte order b3) =
      .bytes b0 b1 b2 b3 := by
  have h : ∀ b, (bitsOfByte order b).length = 8 := bitsOfByte_length order
  simp [pack, List.drop_append, h, List.take_of_length_le, List.drop_eq_nil_of_le]

/-- The shift register of the sequential decoder after 32 bits holds the packed bytes. -/
theorem bytesOfShift_foldl (order : BitOrder) {bits : List Bool} (h : bits.length = 32) :
    bytesOfShift order (bits.foldl shiftIn 0#32) = pack order bits := by
  have byte : ∀ k, k ≤ 3 → (bits.foldl shiftIn 0#32).extractLsb' (24 - 8 * k) 8 =
      packByte .msbFirst ((bits.drop (8 * k)).take 8) := by
    intro k hk
    apply BitVec.eq_of_getLsbD_eq
    intro i hi
    have hl : ((bits.drop (8 * k)).take 8).length = 8 := by simp; omega
    rw [packByte_getLsbD _ hl hi, BitVec.getLsbD_extractLsb']
    simp only [hi, decide_true, Bool.true_and]
    have hf := foldl_shift_getLsbD (w := 32) bits 0#32 (24 - 8 * k + i) (by omega)
    rw [h, if_pos (by omega)] at hf
    refine hf.trans ?_
    rw [List.getD_eq_getElem?_getD, List.getD_eq_getElem?_getD, List.getElem?_take_of_lt (by omega), List.getElem?_drop]
    congr 2
    simp
    omega
  have h8 : ∀ k, k ≤ 3 → ((bits.drop (8 * k)).take 8).length = 8 := by intro k hk; simp; omega
  have e0 := byte 0 (by omega)
  have e1 := byte 1 (by omega)
  have e2 := byte 2 (by omega)
  have e3 := byte 3 (by omega)
  have r0 := packByte_reverse (h8 0 (by omega))
  have r1 := packByte_reverse (h8 1 (by omega))
  have r2 := packByte_reverse (h8 2 (by omega))
  have r3 := packByte_reverse (h8 3 (by omega))
  simp only [Nat.mul_zero, Nat.sub_zero, Nat.mul_one, Nat.reduceMul, Nat.reduceSub, List.drop_zero] at e0 e1 e2 e3 r0 r1 r2 r3
  cases order <;> simp only [bytesOfShift, pack, e0, e1, e2, e3, r0, r1, r2, r3]

/-- A byte reversed twice is itself. -/
theorem byte_reverse_reverse (x : Byte) : x.reverse.reverse = x := by
  apply BitVec.eq_of_getLsbD_eq
  intro i hi
  have h7 : 7 - i < 8 := by omega
  have e : 7 - (7 - i) = i := by omega
  rw [BitVec.getLsbD_reverse, BitVec.getMsbD_eq_getLsbD, BitVec.getLsbD_reverse, BitVec.getMsbD_eq_getLsbD]
  simp [hi, h7, e]

/-- The pack of 32 bits in one order and in the other. -/
theorem pack_reverse {bits : List Bool} (h : 32 ≤ bits.length) (b0 b1 b2 b3 : Byte) :
    pack .msbFirst bits = .bytes b0 b1 b2 b3 ↔
    pack .lsbFirst bits = .bytes b0.reverse b1.reverse b2.reverse b3.reverse := by
  have inj : ∀ {x y : Byte}, x.reverse = y.reverse ↔ x = y := by
    intro x y
    refine ⟨fun e => ?_, fun e => by rw [e]⟩
    rw [← byte_reverse_reverse x, e, byte_reverse_reverse]
  simp only [pack, DecodeResult.bytes.injEq]
  rw [packByte_reverse (by simp; omega), packByte_reverse (by simp; omega), packByte_reverse (by simp; omega),
    packByte_reverse (by simp; omega), inj, inj, inj, inj]

end Sys2Proof.Nec
end

