-- ==== Sys2Proof/Laws/Runs.lean ====
section
/-! SUPPORT. Runs and histories taken apart: one operation and the rest, one history after another, and what a tick body may
touch. -/

namespace Sys2Proof.Machine

@[simp] theorem runInstrs_nil (s : State) : runInstrs [] s = .next s := rfl

/-- A run answers exactly when its first operation and the rest do. -/
theorem runInstrs_cons_next {i : Instr} {is : List Instr} {s t : State} :
    runInstrs (i :: is) s = .next t ↔ ∃ u, exec i s = .next u ∧ runInstrs is u = .next t := andThen_eq_next

/-- Two runs one after the other. -/
theorem runInstrs_append (as bs : List Instr) (s : State) :
    runInstrs (as ++ bs) s = andThen (runInstrs as s) (runInstrs bs) := by
  induction as generalizing s with
  | nil => rfl
  | cons a as ih =>
    simp only [List.cons_append, runInstrs]
    cases exec a s <;> simp [ih]

/-- Two runs of data steps one after the other. -/
theorem runData_append (as bs : List DataOp) (s : State) :
    runData (as ++ bs) s = andThen (runData as s) (runData bs) := by
  induction as generalizing s with
  | nil => rfl
  | cons a as ih =>
    simp only [List.cons_append, runData]
    cases dataStep a s <;> simp [ih]

/-- The flushes of two histories one after the other. -/
theorem flushesOf_append (es fs : List Event) : flushesOf (es ++ fs) = flushesOf es ++ flushesOf fs := by
  induction es with
  | nil => rfl
  | cons e es ih => cases e <;> simp [flushesOf, ih]

/-- What two histories one after the other leave open. -/
theorem openTrain_append (p : Params) (acc : List Pulse) (es fs : List Event) :
    openTrain p acc (es ++ fs) = openTrain p (openTrain p acc es) fs := by
  induction es generalizing acc with
  | nil => rfl
  | cons e es ih => cases e <;> simp [openTrain, ih]

/-- Two histories one after the other are true when the second is, from what the first leaves open. -/
theorem historyOk_append (p : Params) (acc : List Pulse) (es fs : List Event) :
    HistoryOk p acc (es ++ fs) ↔ HistoryOk p acc es ∧ HistoryOk p (openTrain p acc es) fs := by
  induction es generalizing acc with
  | nil => simp [HistoryOk, openTrain]
  | cons e es ih => cases e <;> simp [HistoryOk, openTrain, ih, and_assoc]

/-- A tick body touches the buffer, the history, the idle clock and its own phase, and nothing else. -/
theorem tickBodyEffect_frame (s : State) :
    ∃ b es c, tickBodyEffect s = { s with buf := b, out := s.out ++ es, iclk := c, tickPhase := .done } := by
  rcases tickBodyEffect_cases s with ⟨-, h⟩ | ⟨-, h⟩ <;> rw [h]
  · exact ⟨_, [_], _, rfl⟩
  · exact ⟨s.buf, [], s.iclk, by simp⟩

end Sys2Proof.Machine
end

