-- ==== Sys2Proof/Laws/Scheduler.lean ====
section
/-! SUPPORT. What the reference scheduler can do: when it raises a tick, and what leaves a raised tick raised. -/

namespace Sys2Proof.Machine

/-- A due tick is raised; one already raised stays. -/
theorem RefScheduler.raise_raised (now : U64) (r : RefScheduler) :
    (r.raise now).raised = (r.due now || r.raised) := by
  unfold RefScheduler.raise
  split <;> simp_all

/-- Raising again in the same step does nothing. -/
theorem RefScheduler.raise_of_raised {now : U64} {r : RefScheduler} (h : r.raised = true) : r.raise now = r := by
  simp [RefScheduler.raise, h]

/-- A rearm leaves a raised tick raised, whether or not it resets the phase (log 34). -/
@[simp] theorem RefScheduler.rearm_raised (resetsPhase : Bool) (now : U64) (iv : U32) (r : RefScheduler) :
    (r.rearm resetsPhase now iv).raised = r.raised := by
  cases resetsPhase <;> rfl

/-- The events an edge body can emit leave a raised tick raised. -/
theorem RefScheduler.observeAll_raised (resetsPhase : Bool) (now : U64) (r : RefScheduler) {es : List Event}
    (h : ∀ e ∈ es, (∃ l d, e = .pulse l d) ∨ (∃ ps c n, e = .flush ps c n) ∨ ∃ iv, e = .schedRearm iv) :
    (r.observeAll resetsPhase now es).raised = r.raised := by
  induction es generalizing r with
  | nil => rfl
  | cons e es ih =>
    refine (ih (r.observe resetsPhase now e) (fun e' he => h e' (by simp [he]))).trans ?_
    rcases h e (by simp) with ⟨l, d, rfl⟩ | ⟨ps, c, n, rfl⟩ | ⟨iv, rfl⟩
    · rfl
    · rfl
    · exact RefScheduler.rearm_raised resetsPhase now iv r

end Sys2Proof.Machine
end

