-- ==== Sys2Proof/Tests/Slice0.lean ====
section
/-! SUPPORT. Tests on single steps, words and calls, with expected results from spec/95_test_vectors.md (the vector is named with
each), and one witness per statement that has hypotheses. -/

namespace Sys2Proof.Tests

open Sys2Proof.Machine

/-! Helper states. -/

/-- Power-on with `now` as given. -/
def resetAt (now : U64) : State := State.powerOn Params.default now true 0#64 0#64 0#32 0#8 0 0#32 .rejected

/-- After `START 1` at time 0. -/
def started : State := startEffect true (resetAt 0#64)

/-- After `STOP` at time 0. -/
def stopped : State := stopEffect started

/-- After a second `START`. -/
def faulted : State := raiseFault .doubleStart started

/-- Running, at a time, with a buffer, and both clocks since `start`. -/
def runningAt (now start : U64) (buf : List Pulse) : State :=
  { started with
    now := now, pclk := ⟨true, start⟩, iclk := ⟨true, start⟩, buf := buf
    pclkAge := (now - start).toNat, iclkAge := (now - start).toNat }

/-- In front of `E_BODY`, as in section 2.2 of the vectors. -/
def bodyAt (now start : U64) (line : Bool) (buf : List Pulse) : State :=
  { runningAt now start buf with line := line, guard := true, lock := .edge, edgePhase := .locked }

/-- In front of `T_BODY`, as in section 2.3 of the vectors. -/
def tickAt (now start : U64) (buf : List Pulse) : State :=
  { runningAt now start buf with lock := .tick, tickPhase := .locked }

/-- A property of the next state, false of a stop. -/
def onNext (o : Result) (f : State → Bool) : Bool :=
  match o with
  | .next s    => f s
  | .fault _   => false
  | .refused _ => false

/-- The step goes to some next state. -/
def answersNext (o : Result) : Bool := onNext o (fun _ => true)

/-- The step goes to exactly this state. -/
def goesTo (o : Result) (t : State) : Bool := onNext o (fun s => s == t)

/-- The step is refused, for this reason. -/
def refusedBy (o : Result) (r : Refusal) : Bool :=
  match o with
  | .refused r' => r' == r
  | .next _     => false
  | .fault _    => false

/-- The step faults, for this reason. -/
def faultsBy (o : Result) (r : Fault) : Bool :=
  match o with
  | .fault r'  => r' == r
  | .next _    => false
  | .refused _ => false

/-- The events a step adds. -/
def gains (s : State) (o : Result) (es : List Event) : Bool := onNext o (fun t => t.out == s.out ++ es)

/-! Well-formedness. -/

set_option maxRecDepth 4000 in
/-- A call on 256 pulses is refused, one on 255 is not (R63). -/
theorem test_wf_decode : (Instr.decode (List.replicate 256 ⟨true, 560#64⟩)).wellFormed = false ∧
    (Instr.decode (List.replicate 255 ⟨true, 560#64⟩)).wellFormed = true := by decide

set_option maxRecDepth 4000 in
theorem test_wf_isRepeat : (Instr.isRepeat (List.replicate 256 ⟨true, 560#64⟩)).wellFormed = false ∧
    (Instr.isRepeat (List.replicate 255 ⟨true, 560#64⟩)).wellFormed = true := by decide

set_option maxRecDepth 4000 in
/-- The ill-formed call is not queued at the port and not run. -/
theorem test_wf_issue : issue (.decode (List.replicate 256 ⟨true, 560#64⟩)) State.reset = none ∧
    refusedBy (exec (.decode (List.replicate 256 ⟨true, 560#64⟩)) State.reset) (.portListTooLong 256) = true := by decide

/-! Words (vectors V-X10 to V-X18). -/

theorem test_decode_start : decode [.event 0x010000000000000001#72] = .ok (.start true, []) ∧
    decode [.event 0x010000000000000000#72] = .ok (.start false, []) := by decide
theorem test_decode_stop : decode [.event 0x020000000000000000#72] = .ok (.stop, []) := by decide
theorem test_decode_adv : decode [.event 0x030000000000002328#72] = .ok (.adv 9000#64, []) ∧
    decode [.event 0x03FFFFFFFFFFFFFFFF#72] = .ok (.adv 0xFFFFFFFFFFFFFFFF#64, []) := by decide
theorem test_decode_edge : decode [.event 0x040000000000000001#72] = .ok (.edge true, []) ∧
    decode [.event 0x040000000000000000#72] = .ok (.edge false, []) := by decide
theorem test_decode_tick : decode [.event 0x050000000000000000#72] = .ok (.tick, []) := by decide
theorem test_decode_eGuard : decode [.event 0x100000000000000001#72] = .ok (.eGuard true, []) ∧
    decode [.event 0x100000000000000000#72] = .ok (.eGuard false, []) := by decide
theorem test_decode_eAcq : decode [.event 0x110000000000000000#72] = .ok (.eAcq, []) := by decide
theorem test_decode_eBody : decode [.event 0x120000000000000000#72] = .ok (.eBody, []) := by decide
theorem test_decode_eRel : decode [.event 0x130000000000000000#72] = .ok (.eRel, []) := by decide
theorem test_decode_eUnguard : decode [.event 0x140000000000000000#72] = .ok (.eUnguard, []) := by decide
theorem test_decode_tCheck : decode [.event 0x180000000000000000#72] = .ok (.tCheck, []) := by decide
theorem test_decode_tAcq : decode [.event 0x190000000000000000#72] = .ok (.tAcq, []) := by decide
theorem test_decode_tBody : decode [.event 0x1A0000000000000000#72] = .ok (.tBody, []) := by decide
theorem test_decode_tRel : decode [.event 0x1B0000000000000000#72] = .ok (.tRel, []) := by decide

/-- V-X14, followed by another word, which is left alone. -/
theorem test_decode_decode :
    decode [.event 0x200000000000000004#72, .record 0x10000000000002328#65, .record 0x000000000000009C4#65,
      .record 0x10000000000000230#65, .record 0x00000000000000230#65, .event 0x050000000000000000#72] =
    .ok (.decode [⟨true, 9000#64⟩, ⟨false, 2500#64⟩, ⟨true, 560#64⟩, ⟨false, 560#64⟩],
      [.event 0x050000000000000000#72]) := by decide

/-- V-X15. -/
theorem test_decode_isRepeat : decode [.event 0x210000000000000000#72] = .ok (.isRepeat [], []) ∧
    decode [.event 0x210000000000000001#72, .record 0x00000000000000230#65] = .ok (.isRepeat [⟨false, 560#64⟩], []) := by
  decide

/-- V-X16 to V-X18, and an output kind. -/
theorem test_decode_illegal :
    decode [.event 0x010000000000000002#72] = .error (.reservedBits 0x010000000000000002#72) ∧
    decode [.event 0x060000000000000000#72] = .error (.reservedOpcode 0x06#8) ∧
    decode [.event 0x000000000000000000#72] = .error (.reservedOpcode 0x00#8) ∧
    decode [.event 0x7F0000000000000000#72] = .error (.reservedOpcode 0x7F#8) ∧
    decode [.event 0x050000000000000001#72] = .error (.reservedBits 0x050000000000000001#72) ∧
    decode [.event 0x810000000000000000#72] = .error (.outputKind 0x81#8) ∧
    decode [.event 0x200000000000000001#72] = .error (.missingRecords 1) := by decide

/-- A word as the opcode table numbers it, alone and as the first operation after reset. -/
theorem test_table_word : decodeTableWord 72 0x030000000000002328 = some (.adv 9000#64) ∧
    decodeTableWord 72 0x210000000000000001 = some (.isRepeat [⟨false, 0#64⟩]) ∧
    decodeTableWord 72 0x060000000000000000 = none ∧
    onNext (step (State.reset.withFetchWord 72 0x030000000000002328)) (fun t => t.now == 9000#64 && t.port == []) = true ∧
    onNext (step (State.reset.withFetchWord 72 0x010000000000000001)) (fun t => t.runState == .running) = true := by decide

/-- An empty port, an illegal word and an illegal configuration are refused by name. -/
theorem test_step_refusals : refusedBy (step State.reset) .noOperation = true ∧
    refusedBy (step (State.reset.withFetchWord 72 0x060000000000000000)) (.illegalEncoding (.reservedOpcode 0x06#8)) = true ∧
    refusedBy (step { State.reset with params := { Params.default with maxPulseCount := 0#8 } })
      .illegalConfiguration = true := by
  decide

/-- V-X1 to V-X9. -/
theorem test_formats : recordOfPulse ⟨true, 9000#64⟩ = 0x10000000000002328#65 ∧
    decodeResultBits (.bytes 0x00#8 0xFF#8 0xA2#8 0x5D#8) = 0x200FFA25D#34 ∧
    Event.wire (.pulse true 9000#64) = some (.pulse (0x81#8 ++ 0x10000000000002328#65)) ∧
    flushHeaderBits .idle 4 52060 = 0x82#8 ++ 0#1 ++ 0x04#8 ++ 0x000000000000CB5C#64 ∧
    Event.wire (.schedArm 0#32 32#32) = some (.word 0x830000000000000020#72) ∧
    Event.wire (.schedRearm 32#32) = some (.word 0x840000000000000020#72) := by decide

/-! Host and environment operations (vectors V-H1 to V-H8). -/

/-- V-H1 and V-H2. -/
theorem test_start_reset :
    onNext (exec (.start true) (resetAt 1000#64)) (fun t => t.runState == .running && t.pclk == ⟨true, 1000#64⟩ &&
      t.iclk == ⟨true, 1000#64⟩ && t.schedArmed && t.edgeCbRegistered && t.lineConfigured) = true ∧
    gains (resetAt 1000#64) (exec (.start true) (resetAt 1000#64))
      [.lineSetMode true true, .lineOnEdge true true, .schedArm 0#32 32#32] = true ∧
    onNext (exec (.start false) (resetAt 0#64)) (fun t => t.runState == .fault && t.faultCode == .lineMode &&
      !t.pclk.running && !t.schedArmed) = true ∧
    gains (resetAt 0#64) (exec (.start false) (resetAt 0#64)) [.lineSetMode true true, .fault .lineMode] = true := by decide

/-- V-H3, V-H4 and V-H6; in `FAULT` there is no second start. -/
theorem test_start_again :
    goesTo (exec (.start true) started)
      { started with runState := .fault, faultCode := .doubleStart, out := started.out ++ [.fault .doubleStart] } = true ∧
    gains started (exec (.start false) started) [.fault .doubleStart] = true ∧
    gains stopped (exec (.start true) stopped) [.fault .doubleStart] = true ∧
    faultsBy (exec (.start true) faulted) (.stuckInFault "START") = true := by decide

/-- V-H5. -/
theorem test_stop : goesTo (exec .stop (runningAt 100#64 0#64 [⟨false, 100#64⟩]))
    { runningAt 100#64 0#64 [⟨false, 100#64⟩] with
      runState := .stopped, schedArmed := false, edgeCbRegistered := false
      out := started.out ++ [.lineOffEdge, .schedStop] } = true := by decide

/-- V-H8. -/
theorem test_stop_mid_sequence : refusedBy (exec .stop (bodyAt 10000#64 1000#64 true [])) (.notEnabled "STOP") = true := by decide

/-- V-H7, and the wrap of the timebase. -/
theorem test_adv : goesTo (exec (.adv 10#64) faulted) { faulted with now := 10#64, pclkAge := 10, iclkAge := 10 } = true ∧
    onNext (exec (.adv 560#64) (resetAt 0xFFFFFFFFFFFFFF9C#64)) (fun t => t.now == 460#64) = true := by decide

/-! The edge path (vectors V-E1 to V-E7, program P3). -/

/-- The macro-step: V-E1's pulse and everything back as it began. -/
theorem test_edge : goesTo (exec (.edge true) (runningAt 10000#64 1000#64 []))
    { runningAt 10000#64 10000#64 [⟨true, 9000#64⟩] with
      line := true, out := started.out ++ [.schedRearm 32#32, .pulse true 9000#64] } = true := by decide

/-- No edge is served while the tick holds the lock, or after `STOP`. -/
theorem test_edge_disabled : refusedBy (exec (.edge true) (tickAt 10000#64 1000#64 [])) (.notEnabled "EDGE") = true ∧
    refusedBy (exec (.edge true) stopped) (.notEnabled "EDGE") = true := by decide

/-- P3 step 6: the lock plays no part. -/
theorem test_eGuard : goesTo (exec (.eGuard false) { tickAt 0#64 0#64 [] with line := true })
    { tickAt 0#64 0#64 [] with line := false, guard := true, edgePhase := .guarded } = true := by decide

/-- P3 step 11, and the line below step 9. -/
theorem test_eAcq : goesTo (exec .eAcq { started with guard := true, edgePhase := .guarded })
      { started with guard := true, lock := .edge, edgePhase := .locked } = true ∧
    refusedBy (exec .eAcq { tickAt 0#64 0#64 [] with guard := true, edgePhase := .guarded })
      (.notEnabled "E_ACQ") = true := by decide

/-- V-E2 (zero elapsed), V-E6 (across the wrap), V-E4 (the gap pulse). -/
theorem test_eBody :
    onNext (exec .eBody (bodyAt 10000#64 10000#64 false [⟨true, 9000#64⟩]))
      (fun t => t.buf == [⟨true, 9000#64⟩, ⟨false, 50#64⟩] && t.edgePhase == .done) = true ∧
    onNext (exec .eBody (bodyAt 460#64 0xFFFFFFFFFFFFFF9C#64 true []))
      (fun t => t.buf == [⟨true, 560#64⟩] && t.pclk == ⟨true, 460#64⟩) = true ∧
    gains started (exec .eBody (bodyAt 260000#64 10000#64 false [⟨true, 600#64⟩])) [.schedRearm 32#32] = true := by decide

/-- R290(e) and U24: a clock that was started exactly `2^64 - 1` microseconds ago is read, one microsecond more is refused; a tick
that is dropped reads no clock, and a stopped clock is not read. -/
theorem test_clock_overrun :
    answersNext (exec .eBody { bodyAt 9#64 10#64 true [] with pclkAge := 2 ^ 64 - 1 }) = true ∧
    refusedBy (exec .eBody { bodyAt 10#64 10#64 true [] with pclkAge := 2 ^ 64 }) .clockOverrun = true ∧
    refusedBy (exec (.edge true) { runningAt 10#64 10#64 [] with pclkAge := 2 ^ 64 }) .clockOverrun = true ∧
    refusedBy (exec .tBody { tickAt 10#64 10#64 [] with iclkAge := 2 ^ 64 }) .clockOverrun = true ∧
    refusedBy (exec .tick { runningAt 10#64 10#64 [] with iclkAge := 2 ^ 64 }) .clockOverrun = true ∧
    answersNext (exec .tick { bodyAt 10#64 10#64 true [] with iclkAge := 2 ^ 64 }) = true ∧
    answersNext (exec .tBody { tickAt 10#64 10#64 [] with iclk := ⟨false, 10#64⟩, iclkAge := 2 ^ 64 }) = true := by decide

set_option maxRecDepth 4000 in
/-- V-E5: the 128th pulse. -/
theorem test_eBody_overflow :
    onNext (exec .eBody (bodyAt 10600#64 10000#64 true (List.replicate 127 ⟨true, 600#64⟩)))
      (fun t => t.count == 0 && t.iclk.running && t.out == started.out ++ [.schedRearm 32#32, .pulse true 600#64,
        .flush (List.replicate 128 ⟨true, 600#64⟩) .overflow 76800]) = true := by decide

/-- P3 steps 15 and 17. -/
theorem test_eRel : goesTo (exec .eRel { started with guard := true, lock := .edge, edgePhase := .done })
    { started with guard := true, edgePhase := .released } = true := by decide

theorem test_eUnguard : goesTo (exec .eUnguard { started with guard := true, edgePhase := .released }) started = true := by decide

/-! The tick path (vectors V-T1 to V-T7, program P3). -/

/-- The macro-step over V-T3, and dropped with the guard set. -/
theorem test_tick :
    onNext (exec .tick (runningAt 15000#64 10000#64 [⟨true, 9000#64⟩])) (fun t => t.buf == [] && !t.iclk.running &&
      t.lock == .free && t.tickPhase == .idle && t.out == started.out ++ [.flush [⟨true, 9000#64⟩] .idle 9000]) = true ∧
    goesTo (exec .tick { runningAt 15000#64 10000#64 [⟨true, 9000#64⟩] with guard := true, edgePhase := .guarded })
      { runningAt 15000#64 10000#64 [⟨true, 9000#64⟩] with guard := true, edgePhase := .guarded } = true := by decide

/-- V-T1, and P3 step 5. -/
theorem test_tCheck : goesTo (exec .tCheck (bodyAt 0#64 0#64 true [])) (bodyAt 0#64 0#64 true []) = true ∧
    goesTo (exec .tCheck started) { started with tickPhase := .wait } = true := by decide

/-- P3 step 7. -/
theorem test_tAcq : goesTo (exec .tAcq { started with guard := true, edgePhase := .guarded, tickPhase := .wait })
      { started with guard := true, edgePhase := .guarded, lock := .tick, tickPhase := .locked } = true ∧
    refusedBy (exec .tAcq { bodyAt 0#64 0#64 true [] with tickPhase := .wait }) (.notEnabled "T_ACQ") = true := by decide

/-- V-T2, V-T3 and V-T6. -/
theorem test_tBody :
    gains started (exec .tBody (tickAt 14999#64 10000#64 [⟨true, 9000#64⟩])) [] = true ∧
    gains started (exec .tBody (tickAt 15000#64 10000#64 [⟨true, 9000#64⟩])) [.flush [⟨true, 9000#64⟩] .idle 9000] = true ∧
    gains started (exec .tBody (tickAt 4000#64 0xFFFFFFFFFFFFFC18#64 [⟨true, 9000#64⟩]))
      [.flush [⟨true, 9000#64⟩] .idle 9000] = true := by decide

/-- V-T4 and V-T5. -/
theorem test_tBody_nothing :
    gains started (exec .tBody { tickAt 90000#64 0#64 [⟨true, 60#64⟩] with iclk := ⟨false, 0#64⟩ }) [] = true ∧
    onNext (exec .tBody (tickAt 1000000#64 0#64 [])) (fun t => t.iclk.running && t.out == started.out) = true := by decide

/-- P3 step 10. -/
theorem test_tRel : goesTo (exec .tRel { started with lock := .tick, tickPhase := .done }) started = true := by decide

/-! The decoder (vectors V-W1 to V-W18, V-R1 to V-R27, V-D1 to V-D40, V-F1, V-F2). -/

/-- The command of the vectors. -/
def frameF : List Pulse := Nec.necFrameDefault .msbFirst 0x00#8 0xFF#8 0xA2#8 0x5D#8

theorem test_classes : [399#64, 400#64, 700#64, 701#64, 1999#64, 2000#64, 3000#64, 3001#64, 3899#64].map Nec.classify =
      [.other, .short, .short, .other, .other, .rmark, .rmark, .other, .other] ∧
    [3900#64, 5100#64, 5101#64, 7199#64, 7200#64, 10800#64, 10801#64, 0#64, 4294967856#64].map Nec.classify =
      [.mark, .mark, .other, .other, .space, .space, .other, .other, .other] := by decide

/-- V-R2, V-R4, V-R5, V-R6, V-R7, V-R22 to V-R27. -/
theorem test_isRepeat :
    ([[⟨false, 40000#64⟩, ⟨true, 9000#64⟩, ⟨false, 2500#64⟩, ⟨true, 560#64⟩],
      [⟨false, 107940#64⟩, ⟨true, 9000#64⟩, ⟨false, 2500#64⟩, ⟨true, 560#64⟩],
      [⟨true, 9000#64⟩, ⟨false, 2000#64⟩, ⟨true, 400#64⟩, ⟨false, 600#64⟩]].map Nec.isRepeatCode) = [true, true, true] ∧
    ([[⟨false, 107941#64⟩, ⟨true, 9000#64⟩, ⟨false, 2500#64⟩, ⟨true, 560#64⟩],
      [⟨true, 9000#64⟩, ⟨false, 2000#64⟩, ⟨true, 400#64⟩, ⟨false, 599#64⟩],
      [⟨false, 560#64⟩, ⟨false, 560#64⟩, ⟨true, 9000#64⟩, ⟨false, 2500#64⟩],
      [⟨true, 9000#64⟩, ⟨true, 9000#64⟩, ⟨false, 2500#64⟩, ⟨true, 560#64⟩],
      [⟨true, 9000#64⟩, ⟨false, 2500#64⟩, ⟨true, 560#64⟩], []].map Nec.isRepeatCode) =
      [false, false, false, false, false, false] := by decide

/-- V-R1 as a step: the answer is presented and nothing of the engine moves. -/
theorem test_isRepeat_step :
    onNext (exec (.isRepeat [⟨true, 9000#64⟩, ⟨false, 2500#64⟩, ⟨true, 560#64⟩, ⟨false, 560#64⟩]) started)
      (fun t => t.results == [.isRepeat true] && t.buf == started.buf && t.out == started.out) = true := by decide

/-- V-D1 for both orders, V-D4, V-D14. -/
theorem test_decode_frame :
    Nec.decodeTrain .msbFirst frameF = .bytes 0x00#8 0xFF#8 0xA2#8 0x5D#8 ∧
    Nec.decodeTrain .lsbFirst frameF = .bytes 0x00#8 0xFF#8 0x45#8 0xBA#8 ∧
    Nec.decodeTrain .msbFirst (frameF.set 35 ⟨false, 560#64⟩) = .bytes 0x00#8 0xFF#8 0x22#8 0x5D#8 ∧
    Nec.decodeTrain .msbFirst ((frameF.set 2 ⟨true, 701#64⟩).dropLast ++
      [⟨true, 560#64⟩, ⟨false, 1690#64⟩, ⟨true, 560#64⟩]) = .bytes 0x01#8 0xFF#8 0x44#8 0xBB#8 := by decide

/-- V-D11, V-D17, V-D20, V-D33, V-D37; V-D36 decodes. -/
theorem test_decode_corners :
    Nec.decodeTrain .msbFirst (frameF.set 2 ⟨true, 701#64⟩) = .rejected ∧
    Nec.decodeTrain .msbFirst (frameF ++ [⟨false, 560#64⟩]) = .rejected ∧
    Nec.decodeTrain .msbFirst (frameF.take 2 ++ frameF.drop 4) = .rejected ∧
    Nec.decodeTrain .msbFirst (frameF.set 2 ⟨true, 4294967856#64⟩) = .rejected ∧
    Nec.decodeTrain .msbFirst [⟨true, 9000#64⟩, ⟨false, 2500#64⟩, ⟨true, 560#64⟩, ⟨false, 560#64⟩] = .repeatCode ∧
    Nec.decodeTrain .msbFirst (frameF.dropLast ++ [⟨true, 560#64⟩, ⟨false, 560#64⟩, ⟨true, 9999#64⟩, ⟨false, 1#64⟩,
      ⟨true, 560#64⟩]) = .bytes 0x00#8 0xFF#8 0xA2#8 0x5D#8 := by decide

/-- The registers of the traces V-F1 and V-F2. -/
def idleRegs : NecRegs := State.reset.nec

/-- V-F1 in 2 steps, V-F2 in 7. -/
theorem test_sequential :
    (Nec.seqRun .msbFirst [⟨true, 9000#64⟩, ⟨false, 2500#64⟩, ⟨true, 560#64⟩, ⟨false, 560#64⟩] 2 idleRegs).map
      (fun g => (g.decState, g.res)) = some (.idle, .repeatCode) ∧
    (Nec.seqRun .msbFirst [⟨false, 40000#64⟩, ⟨true, 9000#64⟩, ⟨false, 4500#64⟩, ⟨true, 560#64⟩] 6 idleRegs).map
      (fun g => (g.decState, g.cursor, g.res)) = some (.done, 3#8, .rejected) ∧
    (Nec.seqRun .msbFirst [⟨false, 40000#64⟩, ⟨true, 9000#64⟩, ⟨false, 4500#64⟩, ⟨true, 560#64⟩] 7 idleRegs).map
      (fun g => g.decState) = some .idle := by decide

/-! Witnesses: for each statement with hypotheses, states and operands that meet them, at the boundaries of each clause. -/

/-- The smallest legal constants. -/
def smallest : Params :=
  { Params.default with minElapsed := 1#64, maxElapsed := 1#64, maxPulseCount := 1#8, idleCheckIntervalMs := 1#32 }

/-- Some operation answers a next state. -/
abbrev answers (o : Result) : Bool := answersNext o

theorem answers_iff {o : Result} (h : answers o = true) : ∃ t, o = .next t := by
  cases o with
  | next t => exact ⟨t, rfl⟩
  | fault r => cases h
  | refused r => cases h

/-- `PowerOnMeetsTheInvariants`, `UnspecifiedResetValuesAreNeverRead`, `ClampSaturatesAndIsMonotone`,
`AppendConditionOnTheRawValue`: legal constants, also the smallest; and each case of the clamp is met. -/
theorem wit_legal : Params.default.Legal ∧ smallest.Legal ∧ (49#64 < Params.default.minElapsed) ∧
    (Params.default.maxElapsed < 250001#64) ∧ (Params.default.minElapsed ≤ 50#64) ∧ (50#64 ≤ Params.default.maxElapsed) ∧
    ¬ smallest.minElapsed < smallest.maxElapsed := by decide

/-- The invariant on concrete states: after reset, after `START`, with a buffer, in each phase of both sequences, after `STOP`,
in `FAULT`. -/
theorem wit_inv_reset : (resetAt 7#64).Inv := by constructor <;> decide

theorem wit_inv_started : started.Inv := by constructor <;> decide

theorem wit_inv_running : (runningAt 15000#64 10000#64 [⟨true, 9000#64⟩]).Inv := by constructor <;> decide

theorem wit_inv_body : (bodyAt 15000#64 10000#64 true [⟨true, 9000#64⟩]).Inv := by constructor <;> decide

theorem wit_inv_tick : (tickAt 15000#64 10000#64 [⟨true, 9000#64⟩]).Inv := by constructor <;> decide

theorem wit_inv_stopped : stopped.Inv := by constructor <;> decide

theorem wit_inv_faulted : faulted.Inv := by constructor <;> decide

theorem wit_quiescent : (runningAt 15000#64 10000#64 [⟨true, 9000#64⟩]).Quiescent ∧ started.Quiescent :=
  ⟨by constructor <;> decide, by constructor <;> decide⟩

/-- `StepRunsTheDecodedOperation`: an operation at the port of a legal configuration. -/
theorem wit_StepRunsTheDecodedOperation : State.reset.params.Legal ∧
    decode (State.reset.withFetchWord 72 0x030000000000000001).port = .ok (.adv 1#64, []) := by decide

/-- `IllegalWordsSelectNoOperation`: both ends of each range of reserved opcodes, and a reserved bit of each layout that has
one. -/
theorem wit_IllegalWordsSelectNoOperation : State.reset.params.Legal ∧
    ([0x00, 0x06, 0x0F, 0x15, 0x17, 0x1C, 0x1F, 0x22, 0x7F, 0x80, 0xFF].all (fun n =>
      (State.reset.withFetchWord 72 (n * 2 ^ 64)).port == [.event (BitVec.ofNat 72 (n * 2 ^ 64))] &&
      (opcodeByte (BitVec.ofNat 72 (n * 2 ^ 64))).toNat == n)) = true ∧
    ([0x010000000000000002#72, 0x020000000000000001#72, 0x200000000000000100#72].all (fun ew =>
      opcodeTable.any (fun r => opcodeByte ew == opcodeByte r.pattern && (ew &&& r.mask) != r.pattern))) = true := by decide

/-- `EncodeOfDecodeIsTheWords`. -/
theorem wit_EncodeOfDecodeIsTheWords :
    decode [.event 0x210000000000000001#72, .record 0x1FFFFFFFFFFFFFFFF#65, .record 0#65] =
      .ok (.isRepeat [⟨true, 0xFFFFFFFFFFFFFFFF#64⟩], [.record 0#65]) := by decide

/-- `DecoderAcceptsExactlyTheTable`: a word and a row it fits. -/
theorem wit_DecoderAcceptsExactlyTheTable :
    (opcodeTable.map (fun r => r.fits 0x1B0000000000000000#72)).count true = 1 := by decide

set_option maxRecDepth 4000 in
/-- `RecordAndEventLayouts` and `FlushEventReplaysToTheDecoder`: 255 pulses and the largest sum that has a layout; `DecodeOfEncode…`
and `EncodedWordFitsItsRow` have `test_wf_decode`. -/
theorem wit_FlushEventReplaysToTheDecoder :
    (List.replicate 255 (⟨true, 1#64⟩ : Pulse)).length ≤ 255 ∧ 18446744073709551615 < 2 ^ 64 ∧
    (Event.wire (.flush (List.replicate 255 ⟨true, 1#64⟩) .idle 18446744073709551615)).isSome = true ∧
    (Event.wire (.flush [] .idle 0)).isSome = true := by decide

/-- `StartStep`, `FaultCausesAreComplete`, `RunStateTransitions`: a state for each clause, and a step that changes the
fault code. -/
theorem wit_RunStateTransitions : (resetAt 7#64).runState = .reset ∧ started.runState = .running ∧ started.edgePhase = .idle ∧
    started.tickPhase = .idle ∧ stopped.runState = .stopped ∧ faulted.runState = .fault ∧
    answers (exec (.start true) (resetAt 7#64)) = true ∧ answers (exec (.adv 1#64) faulted) = true ∧
    onNext (exec (.start false) (resetAt 7#64)) (fun t => t.faultCode != (resetAt 7#64).faultCode) = true ∧
    answers (exec (.eGuard true) started) = true := by decide

/-- `FaultIsSticky`: a state for each clause, and the one step that completes in `FAULT`. -/
theorem wit_FaultIsSticky : faulted.runState = .fault ∧ answers (exec (.adv 1#64) faulted) = true ∧ faulted.Inv ∧
    faulted.faultCode ≠ .none ∧ started.runState = .running ∧ stopped.runState = .stopped ∧ (resetAt 7#64).runState = .reset ∧
    (∀ dt, Instr.decode [] ≠ .adv dt) := ⟨by decide, by decide, wit_inv_faulted, by decide, by decide, by decide, by decide, by simp⟩

/-- V-H7: in `FAULT` nothing is enabled but `ADV`, the decoder calls included (U13); before `START` and after `STOP` they are. -/
theorem test_decoder_run_states :
    faultsBy (exec (.decode []) faulted) (.stuckInFault "DECODE") = true ∧
    faultsBy (exec (.isRepeat []) faulted) (.stuckInFault "ISREPEAT") = true ∧
    ([resetAt 7#64, started, stopped].all (fun s => answers (exec (.decode []) s) && answers (exec (.isRepeat []) s))) = true := by
  decide

/-- `OperationsOutsideRunning`: each of the operations it allows, in each run state outside `RUNNING`. -/
theorem wit_OperationsOutsideRunning : (resetAt 7#64).Inv ∧ stopped.Inv ∧ faulted.Inv ∧
    ([resetAt 7#64, stopped, faulted].all (fun s => s.runState != .running && answers (exec (.adv 1#64) s))) = true ∧
    ([resetAt 7#64, stopped].all (fun s => s.runState != .fault && answers (exec (.decode []) s) &&
      answers (exec (.isRepeat []) s))) = true ∧
    answers (exec (.start true) (resetAt 7#64)) = true ∧ answers (exec (.start true) stopped) = true :=
  ⟨wit_inv_reset, wit_inv_stopped, wit_inv_faulted, by decide⟩

/-- `StopCompletesBetweenSequences`, both clauses. -/
theorem wit_StopCompletesBetweenSequences : CanStop started ∧ ¬ CanStop (bodyAt 0#64 0#64 true []) ∧ ¬ CanStop stopped := by
  decide

/-- `BufferedPulsesDieWithStop`: a pulse in the buffer, and a run after. `AppendIsAlwaysDefined` has the same invariant. -/
theorem wit_BufferedPulsesDieWithStop : (runningAt 15000#64 10000#64 [⟨true, 9000#64⟩]).Inv ∧
    goesTo (exec .stop (runningAt 15000#64 10000#64 [⟨true, 9000#64⟩]))
      (stopEffect (runningAt 15000#64 10000#64 [⟨true, 9000#64⟩])) = true ∧
    answers (runInstrs [.adv 9#64, .start true] (stopEffect (runningAt 15000#64 10000#64 [⟨true, 9000#64⟩]))) = true :=
  ⟨wit_inv_running, by decide⟩

/-- The invariant in the states of `EdgeReleaseStep` and `UnguardStep`. -/
theorem wit_inv_done : State.Inv { started with guard := true, lock := .edge, edgePhase := .done } := by constructor <;> decide

theorem wit_inv_released : State.Inv { started with guard := true, edgePhase := .released } := by constructor <;> decide

/-- `GuardStep`, `EdgeAcquireStep`, `EdgeReleaseStep`, `UnguardStep`: each clause. -/
theorem wit_edge_micro_steps :
    State.Inv { started with guard := true, lock := .edge, edgePhase := .done } ∧
    State.Inv { started with guard := true, edgePhase := .released } ∧ CanGuard started ∧ ¬ CanGuard (resetAt 7#64) ∧
    CanEdgeAcquire { started with guard := true, edgePhase := .guarded } ∧
    ¬ CanEdgeAcquire { started with guard := true, edgePhase := .guarded, lock := .tick, tickPhase := .locked } ∧
    CanEdgeRelease { started with guard := true, lock := .edge, edgePhase := .done } ∧ ¬ CanEdgeRelease started ∧
    answers (exec .eRel { started with guard := true, lock := .edge, edgePhase := .done, tickPhase := .wait }) = true ∧
    answers (exec .eRel { started with guard := true, lock := .edge, edgePhase := .done }) = true ∧
    CanUnguard { started with guard := true, edgePhase := .released } ∧ ¬ CanUnguard started ∧
    answers (exec .eUnguard { started with guard := true, edgePhase := .released }) = true :=
  ⟨wit_inv_done, wit_inv_released, by decide⟩

set_option maxRecDepth 4000 in
/-- `EdgeBodyStep`: an empty buffer, one below capacity, a duration one below the gap and one at it; and no body without the
lock. -/
theorem wit_EdgeBodyStep :
    ([bodyAt 0#64 0#64 true [], bodyAt 600#64 0#64 true (List.replicate 127 ⟨true, 600#64⟩), bodyAt 249999#64 0#64 false [],
      bodyAt 250000#64 0#64 false []].all (fun s => decide (s.params.Legal ∧ s.runState ≠ .fault ∧ s.edgePhase = .locked ∧
        s.count < capacity s.params ∧ s.pclkAge < 2 ^ 64))) = true ∧ started.edgePhase ≠ .locked := by decide

/-- `EdgeBodyStep`, the clause on the pulse clock. -/
theorem wit_EdgeBodyStep_clock : (bodyAt 15000#64 10000#64 true [⟨true, 9000#64⟩]).Inv ∧
    answers (exec .eBody (bodyAt 15000#64 10000#64 true [⟨true, 9000#64⟩])) = true := ⟨wit_inv_body, by decide⟩

/-- `EdgeMacroIsItsMicroSteps` and `EdgeMacroCompletes`, each clause. -/
theorem wit_EdgeMacroCompletes : (runningAt 15000#64 10000#64 [⟨true, 9000#64⟩]).Inv ∧
    CanEdge (runningAt 15000#64 10000#64 [⟨true, 9000#64⟩]) ∧
    PulseClockReadable (runningAt 15000#64 10000#64 [⟨true, 9000#64⟩]) ∧
    answers (exec (.edge false) (runningAt 15000#64 10000#64 [⟨true, 9000#64⟩])) = true ∧
    answers (runInstrs (Trace.edgeMicroSteps false) (runningAt 15000#64 10000#64 [⟨true, 9000#64⟩])) = true ∧
    ¬ CanEdge (tickAt 0#64 0#64 []) ∧ ¬ CanEdge stopped := ⟨wit_inv_running, by decide⟩

/-- `CheckStep`, `TickAcquireStep`, `TickReleaseStep`: each clause. -/
theorem wit_tick_micro_steps : CanCheck started ∧ started.guard = false ∧
    CanCheck (bodyAt 0#64 0#64 true []) ∧ (bodyAt 0#64 0#64 true []).guard = true ∧ ¬ CanCheck (resetAt 7#64) ∧
    CanTickAcquire { started with tickPhase := .wait } ∧ ¬ CanTickAcquire { bodyAt 0#64 0#64 true [] with tickPhase := .wait } ∧
    CanTickRelease { started with lock := .tick, tickPhase := .done } ∧ ¬ CanTickRelease started ∧
    answers (exec .tRel { started with lock := .tick, tickPhase := .done, guard := true, edgePhase := .guarded }) = true := by
  decide

/-- `TickAcquireStep`, a tick that waited for an edge: one microsecond below the gap. -/
theorem wit_TickAcquireStep_waiting : State.tickPhase { bodyAt 15000#64 10000#64 true [] with tickPhase := .wait } = .wait ∧
    answers (exec .eBody { bodyAt 15000#64 10000#64 true [] with tickPhase := .wait }) = true ∧
    4999#64 < Params.default.gapUsecs := by decide

/-- `FirstEdgeMeasuresFromStart`: each clause at its boundary. -/
theorem wit_FirstEdgeMeasuresFromStart : (resetAt 7#64).Inv ∧
    State.Inv { resetAt 7#64 with params := { Params.default with maxPulseCount := 1#8 } } ∧
    (resetAt 7#64).runState = .reset ∧ Params.default.maxElapsed ≤ 250000#64 ∧ 249999#64 < Params.default.maxElapsed ∧
    Params.default.minElapsed < Params.default.maxElapsed ∧ 1 < capacity { Params.default with maxPulseCount := 2#8 } ∧
    capacity { Params.default with maxPulseCount := 1#8 } = 1 := ⟨wit_inv_reset, by constructor <;> decide, by decide⟩

/-- `TickBodyStep`: the four rows at their boundaries, and no body without the lock. -/
theorem wit_TickBodyStep :
    CanTickBody (tickAt 0#64 0#64 []) ∧ { tickAt 0#64 0#64 [] with iclk := ⟨false, 0#64⟩ : State }.iclk.running = false ∧
    (tickAt 4999#64 0#64 []).iclkAge < 2 ^ 64 ∧ (tickAt 5000#64 0#64 [⟨true, 50#64⟩]).iclkAge < 2 ^ 64 ∧
    (tickAt 4999#64 0#64 []).now - (tickAt 4999#64 0#64 []).iclk.start < Params.default.gapUsecs ∧
    Params.default.gapUsecs ≤ (tickAt 5000#64 0#64 []).now - (tickAt 5000#64 0#64 []).iclk.start ∧
    (tickAt 5000#64 0#64 []).count = 0 ∧ 1 ≤ (tickAt 5000#64 0#64 [⟨true, 50#64⟩]).count ∧ ¬ CanTickBody started := by
  decide

/-- `TickMacroCompletes`, both clauses, with a flush due and none. -/
theorem wit_TickMacroCompletes : (bodyAt 15000#64 10000#64 true [⟨true, 9000#64⟩]).Inv ∧
    (runningAt 15000#64 10000#64 [⟨true, 9000#64⟩]).Inv ∧ started.Inv ∧
    (bodyAt 15000#64 10000#64 true [⟨true, 9000#64⟩]).guard = true ∧
    IdleClockReadable (runningAt 15000#64 10000#64 [⟨true, 9000#64⟩]) ∧ IdleClockReadable started ∧
    IdleFlushDue (runningAt 15000#64 10000#64 [⟨true, 9000#64⟩]) ∧ ¬ IdleFlushDue started ∧ CanCheck started ∧
    ¬ CanCheck (tickAt 0#64 0#64 []) := ⟨wit_inv_body, wit_inv_running, wit_inv_started, by decide⟩

/-- Three pulses of capacity, for the flush over a run. -/
def three : State := { started with params := { Params.default with maxPulseCount := 3#8 } }

theorem wit_inv_three : three.Inv ∧ three.Quiescent := ⟨by constructor <;> decide, by constructor <;> decide⟩

/-- `OverflowFlushesExactlyAtCapacity`: one below capacity and at capacity. -/
theorem wit_OverflowFlushesExactlyAtCapacity : three.Inv ∧ three.Quiescent ∧
    (∀ x ∈ [(false, 600#64), (true, 0#64), (false, 249999#64)], x.2 < three.params.maxElapsed) ∧
    three.runState = .running ∧ three.buf = [] ∧ three.pclk.start = three.now ∧ three.pclkAge = 0 ∧
    three.params.minElapsed < three.params.maxElapsed ∧
    [(false, 600#64), (true, 0#64)].length < capacity three.params ∧
    [(false, 600#64), (true, 0#64), (false, 249999#64)].length = capacity three.params :=
  ⟨wit_inv_three.1, wit_inv_three.2, by
    intro x hx
    simp at hx
    rcases hx with rfl | rfl | rfl <;> decide, by decide⟩

/-- `IdleFlushHappensExactlyOnce`: at exactly the gap. -/
theorem wit_IdleFlushHappensExactlyOnce :
    let s := runningAt 11000#64 10000#64 [⟨true, 9000#64⟩]
    s.Inv ∧ s.Quiescent ∧
    s.runState = .running ∧ s.buf ≠ [] ∧ s.iclk.running = true ∧ s.params.gapUsecs ≤ (s.now + 4000#64) - s.iclk.start ∧
    s.iclkAge + (4000#64 : U64).toNat < 2 ^ 64 ∧
    ([Instr.tick, .adv 5#64].all (fun i => i == .tick || i == .adv 5#64)) = true :=
  ⟨by constructor <;> decide, by constructor <;> decide, by decide⟩

/-- `EveryStepKeepsTheInvariant`, `EveryStepKeepsTheHistoryTrue`: a step that flushes, from a true history. -/
theorem wit_EveryStepKeepsTheHistoryTrue : State.Inv { three with port := encode (.edge true) } ∧
    HistoryOk three.params [] three.out ∧ openTrain three.params [] three.out = three.buf ∧
    answers (step { three with port := encode (.edge true) }) = true := by
  refine ⟨by constructor <;> decide, ?_, by decide, by decide⟩
  simp [three, started, startEffect, startAccepted, HistoryOk, emit, resetAt, State.powerOn]

/-- `HistoryOnlyGrowsAndConstantsStand`, `StateMovesOnlyByItsAgents`, `RunsSerialiseToTheirDataSteps`, `MacroRunsNeverContend`:
steps and runs that answer. -/
theorem wit_runs : started.Inv ∧ started.Quiescent ∧ answers (exec (.edge true) started) = true ∧
    answers (runInstrs [.tick, .adv 600#64, .edge false, .decode [], .stop] started) = true ∧
    ([Instr.tick, .adv 600#64, .edge false, .decode [], .stop].all (fun i => !i.isMicroStep)) = true ∧
    answers (runInstrs [.adv 9#64, .tCheck, .eGuard true, .tAcq, .tBody, .tRel, .eAcq, .eBody, .eRel, .eUnguard] started) = true :=
  ⟨wit_inv_started, wit_quiescent.2, by decide⟩

/-- `LockHolderCanAlwaysMove`, each holder. -/
theorem wit_LockHolderCanAlwaysMove : (bodyAt 15000#64 10000#64 true [⟨true, 9000#64⟩]).Inv ∧
    (tickAt 15000#64 10000#64 [⟨true, 9000#64⟩]).Inv ∧ (bodyAt 15000#64 10000#64 true [⟨true, 9000#64⟩]).lock = .edge ∧
    (bodyAt 15000#64 10000#64 true [⟨true, 9000#64⟩]).runState = .running ∧
    (bodyAt 15000#64 10000#64 true [⟨true, 9000#64⟩]).pclkAge < 2 ^ 64 ∧
    (tickAt 15000#64 10000#64 [⟨true, 9000#64⟩]).iclkAge < 2 ^ 64 ∧
    (tickAt 15000#64 10000#64 [⟨true, 9000#64⟩]).lock = .tick ∧
    (tickAt 15000#64 10000#64 [⟨true, 9000#64⟩]).runState = .running := ⟨wit_inv_body, wit_inv_tick, by decide⟩

/-- A platform whose tick is due in the instant of an edge. -/
def platform : RefPlatform := { block := started, sched := RefScheduler.arm 0#64 0#32 32#32 }

/-- `ArbiterServesTheEdgeThenTheTick`: a tick due in the instant of the edge. -/
theorem wit_ArbiterServesTheEdgeThenTheTick : platform.block.Inv ∧ platform.block.Quiescent ∧
    platform.block.runState = .running ∧ platform.block.pclkAge < 2 ^ 64 ∧ platform.sched.due platform.block.now = true :=
  ⟨wit_inv_started, wit_quiescent.2, by decide⟩

/-- R246(iii) for both values of `REARM_RESETS_PHASE`: after the edge the tick stands raised, and the next tick after it is an
interval later. -/
theorem test_tick_after_edge :
    ([true, false].map (fun r => (RefPlatform.step r (some false) 1#64 platform).map (fun q =>
      (q.sched.raised, q.sched.next, q.block.now)))) = [some (true, 32000#64, 0#64), some (true, 32000#64, 0#64)] ∧
    ([true, false].map (fun r => ((RefPlatform.step r (some false) 1#64 platform).bind (RefPlatform.step r none 7#64)).map
      (fun q => (q.sched.raised, q.block.now)))) = [some (false, 0#64), some (false, 0#64)] := by decide

/-- `MeasuredTimeIsExact`: an edge body and a tick body that complete, on clocks that run. -/
theorem wit_MeasuredTimeIsExact : (bodyAt 15000#64 10000#64 true [⟨true, 9000#64⟩]).Inv ∧
    answers (exec .eBody (bodyAt 15000#64 10000#64 true [⟨true, 9000#64⟩])) = true ∧
    (tickAt 15000#64 10000#64 [⟨true, 9000#64⟩]).Inv ∧ (tickAt 15000#64 10000#64 [⟨true, 9000#64⟩]).iclk.running = true ∧
    answers (exec .tBody (tickAt 15000#64 10000#64 [⟨true, 9000#64⟩])) = true := ⟨wit_inv_body, by decide, wit_inv_tick, by decide⟩

set_option maxRecDepth 4000 in
/-- `EnvironmentViolationsHaveNoStep`: a state for each clause, the ages and the length one past the last that is allowed. -/
theorem wit_EnvironmentViolationsHaveNoStep : (bodyAt 0#64 0#64 true []).edgePhase ≠ .idle ∧ (tickAt 0#64 0#64 []).tickPhase ≠ .idle ∧
    stopped.runState ≠ .running ∧ answers (exec .tick started) = true ∧
    2 ^ 64 - 1 < State.pclkAge { bodyAt 0#64 0#64 true [] with pclkAge := 2 ^ 64 } ∧
    2 ^ 64 - 1 < State.iclkAge { tickAt 0#64 0#64 [] with iclkAge := 2 ^ 64 } ∧ (tickAt 0#64 0#64 []).iclk.running = true ∧
    started.guard = false ∧ 255 < (List.replicate 256 (⟨true, 560#64⟩ : Pulse)).length := by decide

/-- `RearmDecidesWhenTheNextTickIsDue`: both sides of the equivalence, and the last `dt` it covers. -/
theorem wit_RearmDecidesWhenTheNextTickIsDue : platform.sched.armed = true ∧ (31999#64 : U64).toNat < 2 ^ 63 ∧
    (0x7FFFFFFFFFFFFFFF#64 : U64).toNat < 2 ^ 63 := by decide

/-- `BytesNeedSixtySevenPulses`: a train that decodes to bytes. -/
theorem wit_BytesNeedSixtySevenPulses : Nec.decodeTrain .msbFirst frameF = .bytes 0x00#8 0xFF#8 0xA2#8 0x5D#8 :=
  test_decode_frame.1

/-- `EachMarkDecidesItsBit`, `NecFrameRoundTrip`: boundary values of the short window, and a long mark below and above it. -/
theorem wit_NecFrameRoundTrip : (List.replicate 32 (701#64 : U64)).length = 32 ∧ 400 ≤ (400#64 : U64).toNat ∧
    (700#64 : U64).toNat ≤ 700 ∧ ((399#64 : U64).toNat < 400 ∨ 700 < (399#64 : U64).toNat) ∧
    ((701#64 : U64).toNat < 400 ∨ 700 < (701#64 : U64).toNat) := by decide

/-- `TraceLinesAssemble`: digits of either case, and where a row of digits ends (R108). -/
theorem test_digits : "09afAF".toList.map Trace.digitValue = [some 0, some 9, some 10, some 15, some 10, some 15] ∧
    "gG/: ".toList.map Trace.digitValue = [none, none, none, none, none] := by decide

/-- `DecoderSharesNothing`: an operation that completes, one that does not, and one that enters `FAULT`. -/
theorem wit_DecoderSharesNothing : frameF.length ≤ 255 ∧ (∀ qs, Instr.tick ≠ .decode qs) ∧ (∀ qs, Instr.tick ≠ .isRepeat qs) ∧
    started.runState ≠ .fault ∧ onNext (exec .tick started) (fun t => t.runState != .fault) = true ∧ stopped.runState ≠ .fault ∧
    answers (exec .tick stopped) = false ∧ onNext (exec (.start true) started) (fun t => t.runState == .fault) = true :=
  ⟨by simp [frameF, Nec.necFrameDefault, Nec.necFrame, Nec.frameOfMarks, Nec.bitsOfByte], by simp, by simp, by decide⟩

set_option maxRecDepth 4000 in
/-- `SequentialDecoderRefinesTheFunction`, `DecoderCallsWriteOnlyTheirResult`: the longest call, the empty one, and one too
long. -/
theorem wit_SequentialDecoderRefinesTheFunction : idleRegs.decState = .idle ∧ started.runState ≠ .fault ∧
    faulted.runState = .fault ∧ ([] : List Pulse).length ≤ 255 ∧
    (List.replicate 255 (⟨true, 560#64⟩ : Pulse)).length ≤ 255 ∧
    255 < (List.replicate 256 (⟨true, 560#64⟩ : Pulse)).length := by
  decide

end Sys2Proof.Tests
end

section
/-! The values at power-on and after the first `START`, and the clamp (spec/10_state.md R24, R48). -/

namespace Sys2Proof.Machine

/-! Reset. -/

/-- `START` with the mode accepted, in `RESET`, is the accepted branch (R131). -/
theorem exec_start_accepted {s : State} (h : s.runState = .reset) :
    exec (.start true) s = .next (startAccepted (emit (.lineSetMode true true) s)) :=
  exec_start_next.mpr ⟨by simp [h], by simp [startEffect, h]⟩

/-- Settles O1: the first column is read off the power-on state, the second off the accepted branch of `START`. -/
theorem powerOnAndStartedValues : Obligations.PowerOnAndStartedValues := by
  intro p now line a b c d e f g s
  have hreset : s.runState = .reset := rfl
  refine ⟨?powerOn, _, exec_start_accepted hreset, ?started⟩
  case powerOn => simp [s, State.powerOn, count_eq]
  case started => simp [s, State.powerOn, count_eq, startedClock]

/-! The clamp (R24). -/

/-- The clamp bounds of a legal configuration are in order (R10). -/
theorem min_le_max_of_legal {p : Params} (hp : p.Legal) : p.minElapsed ≤ p.maxElapsed := by
  obtain ⟨-, hbounds, -⟩ := hp
  exact hbounds

theorem clamp_of_lt_min {p : Params} {e : U64} (h : e < p.minElapsed) : clamp p e = p.minElapsed := if_pos h

theorem clamp_of_max_lt {p : Params} {e : U64} (hp : p.Legal) (h : p.maxElapsed < e) : clamp p e = p.maxElapsed := by
  have hbounds := min_le_max_of_legal hp
  have hmin : ¬ e < p.minElapsed := by bv_omega
  rw [clamp, if_neg hmin, if_pos h]

theorem clamp_of_mem {p : Params} {e : U64} (hmin : p.minElapsed ≤ e) (hmax : e ≤ p.maxElapsed) : clamp p e = e := by
  rw [clamp, if_neg (BitVec.not_lt.mpr hmin), if_neg (BitVec.not_lt.mpr hmax)]

/-- The clamp as a number: all that the order of the durations needs to know of it. -/
theorem clamp_toNat {p : Params} (hp : p.Legal) (e : U64) :
    (clamp p e).toNat = max p.minElapsed.toNat (min p.maxElapsed.toNat e.toNat) := by
  have hbounds : p.minElapsed.toNat ≤ p.maxElapsed.toNat := min_le_max_of_legal hp
  by_cases hmin : e < p.minElapsed
  · rw [clamp_of_lt_min hmin]
    rw [BitVec.lt_def] at hmin
    omega
  by_cases hmax : p.maxElapsed < e
  · rw [clamp_of_max_lt hp hmax]
    rw [BitVec.lt_def] at hmax
    omega
  · rw [clamp_of_mem (BitVec.not_lt.mp hmin) (BitVec.not_lt.mp hmax)]
    rw [BitVec.lt_def] at hmin hmax
    omega

theorem min_le_clamp {p : Params} (hp : p.Legal) (e : U64) : p.minElapsed ≤ clamp p e := by
  rw [BitVec.le_def, clamp_toNat hp]
  exact le_max_left _ _

theorem clamp_le_max {p : Params} (hp : p.Legal) (e : U64) : clamp p e ≤ p.maxElapsed := by
  rw [BitVec.le_def, clamp_toNat hp]
  exact max_le (min_le_max_of_legal hp) (min_le_left _ _)

/-- The clamp is monotone (R161(b)). -/
theorem clamp_mono {p : Params} (hp : p.Legal) {e e' : U64} (h : e ≤ e') : clamp p e ≤ clamp p e' := by
  rw [BitVec.le_def, clamp_toNat hp, clamp_toNat hp]
  exact max_le_max_left _ (min_le_min_left _ h)

/-- The duration of a constructed pulse is the clamped time since the pulse clock was started (R24, R27). -/
theorem constructedPulse_duration (s : State) :
    (constructedPulse s).duration = clamp s.params (s.now - s.pclk.start) := rfl

/-- Settles O31: the three cases by the order of the value and the bounds, range and monotonicity by `clamp_toNat`. -/
theorem clampSaturatesAndIsMonotone : Obligations.ClampSaturatesAndIsMonotone :=
  ⟨fun _ e hp => ⟨clamp_of_lt_min, clamp_of_max_lt hp, clamp_of_mem, min_le_clamp hp e, clamp_le_max hp e⟩,
    fun _ _ _ hp h => clamp_mono hp h,
    constructedPulse_duration,
    by decide⟩

end Sys2Proof.Machine
end

section
/-! Where the pulse buffer has room, the only fault is the stop of `FAULT` itself (spec/20_memory.md R62, spec/60_exceptions.md
R241). -/

namespace Sys2Proof.Machine

/-! Where a fault can come from. -/

/-- A guarded step whose effect does not fault can only be stuck in `FAULT`. -/
theorem whenEnabled_eq_fault {m : String} {can : Prop} [Decidable can] {s : State} {e : Result} {f : Fault}
    (he : s.runState ≠ .fault → e ≠ .fault f) (h : whenEnabled m can s e = .fault f) :
    s.runState = .fault ∧ f = .stuckInFault m := by
  by_cases hr : s.runState = .fault
  · rw [whenEnabled_inFault hr, Host.Outcome.fault.injEq] at h
    exact ⟨hr, h.symm⟩
  by_cases hc : can
  · rw [whenEnabled_enabled hr hc] at h
    exact absurd h (he hr)
  · rw [whenEnabled_disabled hr hc] at h
    cases h

theorem whenEnabled_next_eq_fault {m : String} {can : Prop} [Decidable can] {s t : State} {f : Fault}
    (h : whenEnabled m can s (.next t) = .fault f) : s.runState = .fault ∧ f = .stuckInFault m :=
  whenEnabled_eq_fault (by simp) h

/-- A sequence whose second part completes faults only where its first does. -/
theorem andThen_next_ne_fault {o : Result} {f : Fault} (k : State → State) (ho : o ≠ .fault f) :
    andThen o (fun u => .next (k u)) ≠ .fault f := by
  cases o with
  | next s => simp
  | fault r => simpa using ho
  | refused r => simp

/-! The bodies and the operations made of several parts. -/

/-- With room in the buffer an edge body does not fault: it completes, or its clock cannot be read. -/
theorem edgeBody_ne_fault {s : State} {f : Fault} (hroom : HasRoom s) : edgeBody s ≠ .fault f := by
  by_cases hp : PulseClockReadable s
  · obtain ⟨t, ht⟩ := edgeBodyEffect_completes hroom
    simp [edgeBody_readable hp, ht]
  · simp [edgeBody_overrun hp]

theorem tickBody_ne_fault {s : State} {f : Fault} : tickBody s ≠ .fault f := by
  by_cases hi : IdleClockReadable s
  · simp [tickBody_readable hi]
  · simp [tickBody_overrun hi]

theorem checkEffect_runState (s : State) : (checkEffect s).runState = s.runState := by
  obtain ⟨-, hs⟩ | ⟨-, hs⟩ := checkEffect_cases s <;> simp [hs]

theorem execTick_eq_fault {s : State} {f : Fault} (h : execTick s = .fault f) :
    s.runState = .fault ∧ f = .stuckInFault "TICK" := by
  refine whenEnabled_eq_fault (fun hr => ?_) h
  split
  · simp
  · intro hacq
    obtain ⟨hfault, -⟩ := whenEnabled_eq_fault (fun _ => andThen_next_ne_fault tickReleaseEffect tickBody_ne_fault) hacq
    exact hr ((checkEffect_runState s).symm.trans hfault)

theorem portCall_eq_fault {m : String} {ps : List Pulse} {r : CallResult} {s : State} {f : Fault}
    (h : portCall m ps r s = .fault f) : s.runState = .fault ∧ f = .stuckInFault m := by
  refine whenEnabled_eq_fault (fun _ => ?_) h
  split <;> simp

/-! Every operation. -/

/-- With room in the buffer every fault of every operation is the stop of `FAULT`, where no operation but `ADV` exists. -/
theorem exec_eq_fault_of_hasRoom {i : Instr} {s : State} {f : Fault} (hroom : HasRoom s) (h : exec i s = .fault f) :
    s.runState = .fault ∧ f = .stuckInFault i.mnemonic := by
  cases i with
  | adv dt => cases h
  | edge lvl =>
    have hroom' : HasRoom (edgeAcquireEffect (guardEffect lvl s)) := hroom
    exact whenEnabled_eq_fault
      (fun _ => andThen_next_ne_fault (fun u => unguardEffect (edgeReleaseEffect u)) (edgeBody_ne_fault hroom')) h
  | eBody => exact whenEnabled_eq_fault (fun _ => edgeBody_ne_fault hroom) h
  | tick => exact execTick_eq_fault h
  | tBody => exact whenEnabled_eq_fault (fun _ => tickBody_ne_fault) h
  | decode ps | isRepeat ps => exact portCall_eq_fault h
  | start modeOk | stop | eGuard lvl | eAcq | eRel | eUnguard | tCheck | tAcq | tRel => exact whenEnabled_next_eq_fault h

/-- Settles O33: the invariant keeps the count below the capacity, and with room no fault but the stop of `FAULT` is met. -/
theorem appendIsAlwaysDefined : Obligations.AppendIsAlwaysDefined := by
  intro i s hs h
  obtain ⟨-, hstuck⟩ := exec_eq_fault_of_hasRoom hs.bufBound h
  cases hstuck

end Sys2Proof.Machine
end

section
/-! Words that select no operation (spec/30_encoding.md R103, R105). -/

namespace Sys2Proof

/-! Opcodes and the opcode table. -/

/-- No two opcodes share a byte (R103). -/
theorem code_injective {o o' : Opcode} (h : o.code = o'.code) : o = o' := by
  have hfound := congrArg opcodeOf h
  rw [opcodeOf_code, opcodeOf_code] at hfound
  exact Option.some.inj hfound

/-- No opcode stands in a reserved range or among the output kinds (R105). -/
theorem code_not_reserved (o : Opcode) :
    ¬ (o.code.toNat = 0x00 ∨ (0x06 ≤ o.code.toNat ∧ o.code.toNat ≤ 0x0F) ∨ (0x15 ≤ o.code.toNat ∧ o.code.toNat ≤ 0x17) ∨
      (0x1C ≤ o.code.toNat ∧ o.code.toNat ≤ 0x1F) ∨ (0x22 ≤ o.code.toNat ∧ o.code.toNat ≤ 0x7F) ∨ 0x80 ≤ o.code.toNat) := by
  cases o <;> decide

/-- The pattern and mask of the row of an opcode: its byte is fixed, and its reserved operand bits are fixed at zero (R103). -/
def Opcode.fixedBits (o : Opcode) : EventWord × EventWord := (o.code ++ 0#64, 0xFF#8 ++ o.format.reserved)

/-- The rows of the opcode table are those of the opcodes, in order. -/
theorem opcodeTable_fixedBits : opcodeTable.map (fun r => (r.pattern, r.mask)) = Opcode.all.map Opcode.fixedBits := by decide

/-- Every row of the opcode table is that of an opcode. -/
theorem exists_opcode_of_mem_opcodeTable {r : TableRow} (hr : r ∈ opcodeTable) :
    ∃ o : Opcode, r.pattern = o.code ++ 0#64 ∧ r.mask = 0xFF#8 ++ o.format.reserved := by
  have hmem : (r.pattern, r.mask) ∈ Opcode.all.map Opcode.fixedBits :=
    opcodeTable_fixedBits ▸ List.mem_map_of_mem (f := fun r => (r.pattern, r.mask)) hr
  obtain ⟨o, -, ho⟩ := List.mem_map.mp hmem
  obtain ⟨hpattern, hmask⟩ := Prod.mk.inj ho
  exact ⟨o, hpattern.symm, hmask.symm⟩

/-- A word with the byte of an opcode and its reserved operand bits clear fits the row of that opcode (R103). -/
theorem and_mask_eq_pattern {o : Opcode} {ew : EventWord} (hcode : opcodeByte ew = o.code)
    (hreserved : operandOf ew &&& o.format.reserved = 0#64) :
    ew &&& (0xFF#8 ++ o.format.reserved) = o.code ++ 0#64 :=
  calc ew &&& (0xFF#8 ++ o.format.reserved)
    _ = (opcodeByte ew ++ operandOf ew) &&& (BitVec.allOnes 8 ++ o.format.reserved) := by
      rw [append_opcodeByte_operandOf]; rfl
    _ = o.code ++ 0#64 := by rw [BitVec.and_append, BitVec.and_allOnes, hcode, hreserved]

/-! The head of a word. -/

/-- A word has a head exactly where its byte is that of an opcode and the reserved bits of that opcode's layout are clear (R103,
R105). -/
theorem decodeHead_eq_ok {ew : EventWord} {h : Head} :
    decodeHead ew = .ok h ↔
      ∃ o : Opcode, opcodeByte ew = o.code ∧ operandOf ew &&& o.format.reserved = 0#64 ∧ h = o.head (operandOf ew) := by
  unfold decodeHead
  constructor
  · intro hok
    split at hok
    · split at hok <;> cases hok
    · rename_i o ho
      split at hok
      · rename_i hreserved
        exact ⟨o, (opcodeOf_eq_some ho).symm, hreserved, (Except.ok.inj hok).symm⟩
      · cases hok
  · rintro ⟨o, hcode, hreserved, rfl⟩
    simp [hcode, hreserved]

/-- A word is never taken for an empty port. -/
theorem decodeHead_ne_noWord (ew : EventWord) : decodeHead ew ≠ .error .noWord := by
  unfold decodeHead
  split
  · split <;> simp
  · split <;> simp

theorem decode_event_error {ew : EventWord} {e : DecodeError} (rest : List PortWord) (h : decodeHead ew = .error e) :
    decode (.event ew :: rest) = .error e := by
  simp [decode, h]

namespace Machine

/-- In a legal configuration a port that holds words but no operation is refused as an illegal encoding (R105). -/
theorem step_illegalEncoding {s : State} {e : DecodeError} (hl : s.params.Legal) (hd : decode s.port = .error e)
    (he : e ≠ .noWord) : step s = .refused (.illegalEncoding e) := by
  have hfetch : fetch s = .error (.illegalEncoding e) := by
    unfold fetch
    rw [if_pos hl, hd]
    cases e with
    | noWord => exact absurd rfl he
    | strayRecord | reservedOpcode _ | outputKind _ | reservedBits _ | missingRecords _ => rfl
  rw [step, hfetch]

/-- A word without a head is refused as an illegal encoding, whatever follows it (R105). -/
theorem step_event_without_head {s : State} {ew : EventWord} {rest : List PortWord} (hl : s.params.Legal)
    (hport : s.port = .event ew :: rest) (hhead : ∀ h, decodeHead ew ≠ .ok h) :
    ∃ e, step s = .refused (.illegalEncoding e) := by
  cases hd : decodeHead ew with
  | ok h => exact absurd hd (hhead h)
  | error e =>
    have he : e ≠ .noWord := fun he => decodeHead_ne_noWord ew (he ▸ hd)
    exact ⟨e, step_illegalEncoding hl (hport ▸ decode_event_error rest hd) he⟩

/-- Settles O5: a word with a head has the byte of an opcode, which is not reserved, and clear reserved bits, so it fits the one
row of its byte. -/
theorem illegalWordsSelectNoOperation : Obligations.IllegalWordsSelectNoOperation := by
  intro s ew rest hl hport hillegal
  refine step_event_without_head hl hport fun h hok => ?_
  obtain ⟨o, hcode, hreserved, -⟩ := decodeHead_eq_ok.mp hok
  rcases hillegal with hrange | ⟨r, hr, hbyte, hmisfit⟩
  · exact code_not_reserved o (hcode ▸ hrange)
  · obtain ⟨o', hpattern, hmask⟩ := exists_opcode_of_mem_opcodeTable hr
    have hsame : o' = o := code_injective (by rw [← hcode, hbyte, hpattern, opcodeByte_append])
    subst hsame
    exact hmisfit (by rw [hpattern, hmask, and_mask_eq_pattern hcode hreserved])

end Machine
end Sys2Proof
end

section
/-! Where the fields of records, results and events stand (spec/30_encoding.md R91 to R100). -/

namespace Sys2Proof.Machine

/-- The fields of a word put together of three. -/
theorem fields_of_three {a b c : Nat} (x : BitVec a) (y : BitVec b) (z : BitVec c) :
    (x ++ (y ++ z)).extractLsb' (b + c) a = x ∧ (x ++ (y ++ z)).extractLsb' c b = y ∧
      (x ++ (y ++ z)).extractLsb' 0 c = z := by
  refine ⟨BitVec.extractLsb'_append_eq_left, ?middle, ?low⟩
  case middle => rw [BitVec.extractLsb'_append_eq_of_add_le (by omega), BitVec.extractLsb'_append_eq_left]
  case low => rw [BitVec.extractLsb'_append_eq_of_add_le (by omega), BitVec.extractLsb'_append_eq_right]

/-- The fields of a word put together of four of one width, from the left. -/
theorem fields_of_four {n : Nat} (x y z w : BitVec n) :
    (x ++ y ++ z ++ w).extractLsb' (n + n + n) n = x ∧ (x ++ y ++ z ++ w).extractLsb' (n + n) n = y ∧
      (x ++ y ++ z ++ w).extractLsb' n n = z ∧ (x ++ y ++ z ++ w).extractLsb' 0 n = w := by
  refine ⟨?_, ?_, ?_, BitVec.extractLsb'_append_eq_right⟩ <;>
    simp [BitVec.extractLsb'_append_eq_of_le, BitVec.extractLsb'_append_eq_right]

/-! Records and results. -/

theorem recordOfPulse_level (p : Pulse) : (recordOfPulse p).getLsbD 64 = p.level := by
  rw [recordOfPulse_getLsbD, if_neg (by decide)]
  cases p.level <;> rfl

theorem recordOfPulse_duration (p : Pulse) : (recordOfPulse p).extractLsb' 0 64 = p.duration :=
  BitVec.extractLsb'_append_eq_right

/-- The tag of a `Bytes` result, and below it the four bytes, the first one highest (R93). -/
theorem decodeResultBits_bytes_fields (b0 b1 b2 b3 : Byte) :
    (decodeResultBits (.bytes b0 b1 b2 b3)).extractLsb' 32 2 = 2#2 ∧
    (decodeResultBits (.bytes b0 b1 b2 b3)).extractLsb' 24 8 = b0 ∧
    (decodeResultBits (.bytes b0 b1 b2 b3)).extractLsb' 16 8 = b1 ∧
    (decodeResultBits (.bytes b0 b1 b2 b3)).extractLsb' 8 8 = b2 ∧
    (decodeResultBits (.bytes b0 b1 b2 b3)).extractLsb' 0 8 = b3 := by
  have hlow {start len : Nat} (h : start + len ≤ 32) : (decodeResultBits (.bytes b0 b1 b2 b3)).extractLsb' start len =
      (b0 ++ b1 ++ b2 ++ b3).extractLsb' start len := BitVec.extractLsb'_append_eq_of_add_le (xhi := 2#2) h
  obtain ⟨h0, h1, h2, h3⟩ := fields_of_four b0 b1 b2 b3
  exact ⟨BitVec.extractLsb'_append_eq_left, (hlow (by decide)).trans h0, (hlow (by decide)).trans h1,
    (hlow (by decide)).trans h2, (hlow (by decide)).trans h3⟩

/-! Events. -/

/-- A pulse event is its kind above a Pulse record (R96). -/
theorem pulseEventBits_fields (l : Bool) (d : U64) :
    (pulseEventBits l d).extractLsb' 65 8 = 0x81#8 ∧ (pulseEventBits l d).getLsbD 64 = l ∧
    (pulseEventBits l d).extractLsb' 0 64 = d := by
  obtain ⟨hkind, -, hduration⟩ := fields_of_three 0x81#8 (BitVec.ofBool l) d
  have hrecord : (pulseEventBits l d).getLsbD 64 = (recordOfPulse ⟨l, d⟩).getLsbD 64 :=
    BitVec.getLsbD_append (x := 0x81#8) (y := recordOfPulse ⟨l, d⟩)
  exact ⟨hkind, hrecord.trans (recordOfPulse_level ⟨l, d⟩), hduration⟩

/-- A flush header is kind, reason, count and sum, each in its own field (R97). -/
theorem flushHeaderBits_fields (r : FlushReason) (n total : Nat) :
    (flushHeaderBits r n total).extractLsb' 73 8 = 0x82#8 ∧ (flushHeaderBits r n total).extractLsb' 72 1 = r.code ∧
    (flushHeaderBits r n total).extractLsb' 64 8 = BitVec.ofNat 8 n ∧
    (flushHeaderBits r n total).extractLsb' 0 64 = BitVec.ofNat 64 total := by
  obtain ⟨hkind, hreason, -⟩ := fields_of_three 0x82#8 r.code (BitVec.ofNat 8 n ++ BitVec.ofNat 64 total)
  obtain ⟨-, hcount, hsum⟩ := fields_of_three r.code (BitVec.ofNat 8 n) (BitVec.ofNat 64 total)
  have hlow {start len : Nat} (h : start + len ≤ 73) : (flushHeaderBits r n total).extractLsb' start len =
      (r.code ++ (BitVec.ofNat 8 n ++ BitVec.ofNat 64 total)).extractLsb' start len :=
    BitVec.extractLsb'_append_eq_of_add_le (xhi := 0x82#8) h
  exact ⟨hkind, hreason, (hlow (by decide)).trans hcount, (hlow (by decide)).trans hsum⟩

/-- A flush within the bounds of its header has a wire form (R97, log 16). -/
theorem wire_flush {ps : List Pulse} {r : FlushReason} {total : Nat} (hlen : ps.length ≤ 255) (htotal : total < 2 ^ 64) :
    Event.wire (.flush ps r total) = some (.flush (flushHeaderBits r ps.length total) (ps.map recordOfPulse)) :=
  if_pos ⟨hlen, htotal⟩

/-- Settles O11: the fields of a concatenation are its parts, and a count and a sum within their bounds are read back whole. -/
theorem recordAndEventLayouts : Obligations.RecordAndEventLayouts := by
  refine ⟨fun p => ⟨recordOfPulse_level p, recordOfPulse_duration p⟩,
    ⟨by decide, by decide, decodeResultBits_bytes_fields⟩, fun _ => rfl,
    fun l d => ⟨rfl, pulseEventBits_fields l d⟩, ?flush⟩
  case flush =>
    intro ps r total hlen htotal
    obtain ⟨hkind, hreason, hcount, hsum⟩ := flushHeaderBits_fields r ps.length total
    refine ⟨_, wire_flush hlen htotal, hkind, hreason, ?count, ?sum⟩
    case count => rw [hcount, BitVec.toNat_ofNat, Nat.mod_eq_of_lt (by omega)]
    case sum => rw [hsum, BitVec.toNat_ofNat, Nat.mod_eq_of_lt htotal]

/-- Settles O12: the kind and the two halves of a scheduler command are the three parts it is put together of; the other words
are closed. -/
theorem commandWordLayouts : Obligations.CommandWordLayouts := by
  refine ⟨?arm, ?rearm, by decide⟩
  case arm => exact fun d iv => ⟨_, rfl, fields_of_three 0x83#8 d iv⟩
  case rearm => exact fun iv => ⟨_, rfl, fields_of_three 0x84#8 0#32 iv⟩

end Sys2Proof.Machine
end

section
/-! The branches of `START` and of a tick body by their conditions, steps that do not exist, and what the invariant says of a
machine that runs (spec/40_capture_engine.md R131, R143; spec/60_exceptions.md R241; spec/10_state.md R49). -/

namespace Sys2Proof.Machine

/-! `START` by its branch. -/

theorem startEffect_again {m : Bool} {s : State} (h : s.runState ≠ .reset) : startEffect m s = raiseFault .doubleStart s :=
  if_pos h

theorem startEffect_accepted {s : State} (h : s.runState = .reset) :
    startEffect true s = startAccepted (emit (.lineSetMode true true) s) := if_neg (not_not_intro h)

theorem startEffect_lineRefused {s : State} (h : s.runState = .reset) :
    startEffect false s = raiseFault .lineMode (emit (.lineSetMode true true) s) := if_neg (not_not_intro h)

/-! A tick body by its branch. -/

theorem tickBodyEffect_due {s : State} (h : IdleFlushDue s) :
    tickBodyEffect s = { flush .idle s with iclk := stoppedClock s.iclk, tickPhase := .done } := if_pos h

theorem tickBodyEffect_notDue {s : State} (h : ¬ IdleFlushDue s) : tickBodyEffect s = { s with tickPhase := .done } := if_neg h

/-! What an edge body leaves. -/

/-- An edge body that completes leaves `bodyState` for some buffer and some events. -/
theorem edgeBodyEffect_eq_bodyState {s t : State} (h : edgeBodyEffect s = .next t) : ∃ b es, t = bodyState s b es := by
  obtain ⟨b, es, ht, -⟩ := edgeBodyEffect_inv h
  exact ⟨b, es, ht⟩

/-! Steps that do not exist, and runs. -/

/-- A guarded step does not exist where its condition fails (R18). -/
theorem noStep_of_disabled {m : String} {can : Prop} [Decidable can] {s : State} {e : Result} (h : ¬ can) :
    NoStep (whenEnabled m can s e) := by
  intro t ht
  obtain ⟨-, hcan, -⟩ := whenEnabled_eq_next.mp ht
  exact h hcan

/-- In `FAULT` every operation but `ADV` is stuck (R241, U13). -/
theorem exec_inFault {i : Instr} {s : State} (hs : s.runState = .fault) (hi : ∀ dt, i ≠ .adv dt) :
    exec i s = .fault (.stuckInFault i.mnemonic) := by
  cases i with
  | adv dt => exact absurd rfl (hi dt)
  | start modeOk | stop | edge lvl | tick | eGuard lvl | eAcq | eBody | eRel | eUnguard | tCheck | tAcq | tBody | tRel
  | decode ps | isRepeat ps => exact whenEnabled_inFault hs

/-- A run whose first operation is known goes on from the state it answers. -/
theorem runInstrs_cons_of_next {i : Instr} {s u : State} (h : exec i s = .next u) (is : List Instr) :
    runInstrs (i :: is) s = runInstrs is u := by
  rw [runInstrs, h, andThen_next]

/-! The invariant. -/

/-- A sequence is in service only in `RUNNING`, or where `FAULT` has stopped it. -/
theorem State.Inv.running_of_edgePhase {s : State} (hs : s.Inv) (hfault : s.runState ≠ .fault) (hphase : s.edgePhase ≠ .idle) :
    s.runState = .running := by
  cases hr : s.runState with
  | reset => exact absurd (hs.inReset hr).1 hphase
  | running => rfl
  | stopped => exact absurd (hs.inStopped hr).1 hphase
  | fault => exact absurd hr hfault

/-- With both phases idle the lock is free (R49). -/
theorem State.Inv.lock_free_of_idle {s : State} (hs : s.Inv) (hedge : s.edgePhase = .idle) (htick : s.tickPhase = .idle) :
    s.lock = .free := by
  cases hl : s.lock with
  | free => rfl
  | edge => simpa [hedge] using hs.lockEdge.mp hl
  | tick => simpa [htick] using hs.lockTick.mp hl

/-- The guard is clear exactly while the edge phase is idle (R49). -/
theorem State.Inv.guard_eq_false_iff {s : State} (hs : s.Inv) : s.guard = false ↔ s.edgePhase = .idle := by
  rw [← Bool.not_eq_true, hs.guardSet, not_not]

end Sys2Proof.Machine
end

section
/-! Serialisability (spec/40_capture_engine.md R153): what a step does to the data view is what its data steps do. -/

namespace Sys2Proof.Machine

/-! The data steps on a data view. -/

theorem dataStep_start (m : Bool) (s : State) : dataStep (.start m) (dataView s) = .next (dataView (startEffect m s)) := by
  refine congrArg Host.Outcome.next ?_
  by_cases hr : s.runState = .reset
  · have hr' : (dataView s).runState = .reset := hr
    cases m
    · rw [startEffect_lineRefused hr, startEffect_lineRefused hr']; rfl
    · rw [startEffect_accepted hr, startEffect_accepted hr']; rfl
  · have hr' : (dataView s).runState ≠ .reset := hr
    rw [startEffect_again hr, startEffect_again hr']; rfl

/-- The state that the data step of an edge body at the line's own level runs on. -/
def lineView (s : State) : State := { dataView s with line := s.line }

/-- An edge body reads nothing that the view erases but the line. -/
theorem edgeBodyEffect_lineView {s t : State} (h : edgeBodyEffect s = .next t) :
    ∃ u, edgeBodyEffect (lineView s) = .next u ∧ dataView u = dataView t := by
  obtain ⟨b, es, rfl, hcase⟩ := edgeBodyEffect_inv h
  refine ⟨bodyState (lineView s) b es, ?_, rfl⟩
  obtain ⟨ha, hc, rfl, rfl⟩ | ⟨ha, hc, rfl, rfl⟩ | ⟨ha, hc, rfl, rfl⟩ | ⟨ha, hc, rfl, rfl⟩ := hcase
  · exact edgeBodyEffect_append (s := lineView s) ha (Nat.lt_of_succ_lt hc) (Nat.ne_of_lt hc)
  · exact edgeBodyEffect_overflow (s := lineView s) ha (Nat.lt_of_succ_le hc.le) hc
  · exact edgeBodyEffect_gap (s := lineView s) ha hc
  · exact edgeBodyEffect_gap_full (s := lineView s) ha hc

theorem dataStep_edgeBody {s t : State} (hread : PulseClockReadable s) (h : edgeBodyEffect s = .next t) :
    dataStep (.edgeBody s.line) (dataView s) = .next (dataView t) := by
  obtain ⟨u, hu, hview⟩ := edgeBodyEffect_lineView h
  have hbody : edgeBody (lineView s) = .next u := edgeBody_eq_next.mpr ⟨hread, hu⟩
  calc dataStep (.edgeBody s.line) (dataView s)
      = andThen (edgeBody (lineView s)) (fun s' => .next (dataView s')) := rfl
    _ = .next (dataView t) := by rw [hbody, andThen_next, hview]

theorem dataStep_tickBody {s : State} (hread : IdleClockReadable s) :
    dataStep .tickBody (dataView s) = .next (dataView (tickBodyEffect s)) := by
  have hread' : IdleClockReadable (dataView s) := hread
  rw [dataStep, tickBody_readable hread', andThen_next]
  refine congrArg Host.Outcome.next ?_
  by_cases hdue : IdleFlushDue s
  · have hdue' : IdleFlushDue (dataView s) := hdue
    rw [tickBodyEffect_due hdue, tickBodyEffect_due hdue']; rfl
  · have hdue' : ¬ IdleFlushDue (dataView s) := hdue
    rw [tickBodyEffect_notDue hdue, tickBodyEffect_notDue hdue']; rfl

theorem runData_singleton (op : DataOp) (s : State) : runData [op] s = dataStep op s := by
  simp only [runData]
  cases dataStep op s <;> rfl

/-! Every operation, and every run. -/

/-- An operation that answers moves the data view exactly as its data steps do. -/
theorem runData_dataOpsOf {i : Instr} {s t : State} (h : exec i s = .next t) :
    runData (dataOpsOf i s) (dataView s) = .next (dataView t) := by
  cases i with
  | start modeOk =>
    obtain ⟨-, rfl⟩ := exec_start_next.mp h
    exact (runData_singleton _ _).trans (dataStep_start modeOk s)
  | stop => obtain ⟨-, rfl⟩ := exec_stop_next.mp h; rfl
  | adv dt => obtain rfl := exec_adv_next.mp h; rfl
  | edge lvl =>
    obtain ⟨-, hread, u, hu, rfl⟩ := exec_edge_next.mp h
    have hbody := dataStep_edgeBody (s := edgeAcquireEffect (guardEffect lvl s)) hread hu
    exact (runData_singleton _ _).trans hbody
  | tick =>
    obtain ⟨-, ⟨hguard, rfl⟩ | ⟨hguard, -, hread, rfl⟩⟩ := exec_tick_next.mp h
    · simp [dataOpsOf, hguard, runData]
    · have hops : dataOpsOf .tick s = [.tickBody] := by simp [dataOpsOf, hguard]
      rw [hops, runData_singleton]
      exact dataStep_tickBody (s := tickAcquireEffect { s with tickPhase := .wait }) hread
  | eBody =>
    obtain ⟨-, -, hread, hbody⟩ := exec_eBody_next.mp h
    exact (runData_singleton _ _).trans (dataStep_edgeBody hread hbody)
  | tBody =>
    obtain ⟨-, -, hread, rfl⟩ := exec_tBody_next.mp h
    exact (runData_singleton _ _).trans (dataStep_tickBody hread)
  | eGuard lvl => obtain ⟨-, rfl⟩ := exec_eGuard_next.mp h; rfl
  | eAcq => obtain ⟨-, -, rfl⟩ := exec_eAcq_next.mp h; rfl
  | eRel => obtain ⟨-, -, rfl⟩ := exec_eRel_next.mp h; rfl
  | eUnguard => obtain ⟨-, -, rfl⟩ := exec_eUnguard_next.mp h; rfl
  | tCheck =>
    obtain ⟨-, rfl⟩ := exec_tCheck_next.mp h
    obtain ⟨-, hcheck⟩ | ⟨-, hcheck⟩ := checkEffect_cases s <;> rw [hcheck] <;> rfl
  | tAcq => obtain ⟨-, -, rfl⟩ := exec_tAcq_next.mp h; rfl
  | tRel => obtain ⟨-, -, rfl⟩ := exec_tRel_next.mp h; rfl
  | decode ps => obtain ⟨-, -, rfl⟩ := exec_decode_next.mp h; rfl
  | isRepeat ps => obtain ⟨-, -, rfl⟩ := exec_isRepeat_next.mp h; rfl

/-- Settles O48, by induction on the run: each operation commutes with the data view (`runData_dataOpsOf`). -/
theorem runsSerialiseToTheirDataSteps : Obligations.RunsSerialiseToTheirDataSteps := by
  intro is
  induction is with
  | nil =>
    intro s t h
    cases h
    rfl
  | cons i is ih =>
    intro s t h
    obtain ⟨u, hstep, hrest⟩ := runInstrs_cons_next.mp h
    have htrace : dataTrace (i :: is) s = dataOpsOf i s ++ dataTrace is u := by simp only [dataTrace, hstep]
    rw [htrace, runData_append, runData_dataOpsOf hstep, andThen_next]
    exact ih u t hrest

end Sys2Proof.Machine
end

section
/-! After `STOP` (spec/40_capture_engine.md R148): what can still happen, and that none of it reads the buffer or the clocks. -/

namespace Sys2Proof.Machine

/-- Where a run stands after `STOP`: stopped, or in `FAULT` since, with no sequence in service. -/
structure State.Halted (s : State) : Prop where
  stoppedOrFault : s.runState = .stopped ∨ s.runState = .fault
  edgeIdle       : s.edgePhase = .idle
  tickIdle       : s.tickPhase = .idle

theorem State.Halted.ne_running {s : State} (hs : s.Halted) : s.runState ≠ .running := by
  obtain hr | hr := hs.stoppedOrFault <;> simp [hr]

theorem State.Halted.ne_reset {s : State} (hs : s.Halted) : s.runState ≠ .reset := by
  obtain hr | hr := hs.stoppedOrFault <;> simp [hr]

theorem halted_stopEffect {s : State} (hs : CanStop s) : (stopEffect s).Halted := by
  obtain ⟨-, hedge, htick⟩ := hs
  exact ⟨.inl rfl, hedge, htick⟩

/-! What can still happen. -/

/-- After `STOP` an operation that answers is a `START` that faults, an `ADV`, or a decoder call. -/
theorem State.Halted.exec_cases {i : Instr} {s t : State} (hs : s.Halted) (h : exec i s = .next t) :
    t = raiseFault .doubleStart s ∨ (∃ dt, t = advance dt s) ∨ ∃ r, t = finishCall r s := by
  cases i with
  | start modeOk =>
    obtain ⟨-, rfl⟩ := exec_start_next.mp h
    exact .inl (startEffect_again hs.ne_reset)
  | adv dt => exact .inr (.inl ⟨dt, exec_adv_next.mp h⟩)
  | decode ps =>
    obtain ⟨-, -, ht⟩ := exec_decode_next.mp h
    exact .inr (.inr ⟨_, ht⟩)
  | isRepeat ps =>
    obtain ⟨-, -, ht⟩ := exec_isRepeat_next.mp h
    exact .inr (.inr ⟨_, ht⟩)
  | stop | edge lvl | tick | eGuard lvl | tCheck =>
    obtain ⟨-, hcan, -⟩ := whenEnabled_eq_next.mp h
    simp [CanStop, CanEdge, CanGuard, CanCheck, hs.ne_running] at hcan
  | eAcq | eBody | eRel | eUnguard =>
    obtain ⟨-, hcan, -⟩ := whenEnabled_eq_next.mp h
    simp [CanEdgeAcquire, CanEdgeBody, CanEdgeRelease, CanUnguard, hs.edgeIdle] at hcan
  | tAcq | tBody | tRel =>
    obtain ⟨-, hcan, -⟩ := whenEnabled_eq_next.mp h
    simp [CanTickAcquire, CanTickBody, CanTickRelease, hs.tickIdle] at hcan

/-- Each of them leaves the machine halted, the flushes as they were, and the buffer. -/
theorem State.Halted.exec_keeps {i : Instr} {s t : State} (hs : s.Halted) (h : exec i s = .next t) :
    t.Halted ∧ flushesOf t.out = flushesOf s.out ∧ t.buf = s.buf := by
  obtain rfl | ⟨dt, rfl⟩ | ⟨r, rfl⟩ := hs.exec_cases h
  · exact ⟨⟨.inr rfl, hs.edgeIdle, hs.tickIdle⟩, by simp [flushesOf_append, flushesOf], rfl⟩
  · exact ⟨⟨hs.stoppedOrFault, hs.edgeIdle, hs.tickIdle⟩, rfl, rfl⟩
  · exact ⟨⟨hs.stoppedOrFault, hs.edgeIdle, hs.tickIdle⟩, rfl, rfl⟩

/-- So does every run of them. -/
theorem State.Halted.run_keeps {is : List Instr} {s t : State} (hs : s.Halted) (h : runInstrs is s = .next t) :
    flushesOf t.out = flushesOf s.out ∧ t.buf = s.buf := by
  induction is generalizing s with
  | nil => cases h; exact ⟨rfl, rfl⟩
  | cons i is ih =>
    obtain ⟨u, hstep, hrest⟩ := runInstrs_cons_next.mp h
    obtain ⟨hu, hflush, hbuf⟩ := hs.exec_keeps hstep
    obtain ⟨hflush', hbuf'⟩ := ih hu hrest
    exact ⟨hflush'.trans hflush, hbuf'.trans hbuf⟩

/-! What they do not read. -/

/-- The state with another buffer and other clocks. -/
def State.withMemory (b : List Pulse) (c c' : Clock) (s : State) : State := { s with buf := b, pclk := c, iclk := c' }

section
variable {b : List Pulse} {c c' : Clock}

/-- A guarded step commutes with the exchange where its condition does not read what is exchanged and its effect commutes. -/
theorem whenEnabled_withMemory {m : String} {can can' : Prop} [Decidable can] [Decidable can'] {s : State} {e e' : Result}
    (hcan : can' ↔ can) (heff : can → e' = andThen e (fun t => .next (t.withMemory b c c'))) :
    whenEnabled m can' (s.withMemory b c c') e' = andThen (whenEnabled m can s e) (fun t => .next (t.withMemory b c c')) := by
  by_cases hr : s.runState = .fault
  · rw [whenEnabled_inFault hr, whenEnabled_inFault (show (s.withMemory b c c').runState = .fault from hr), andThen_fault]
  have hr' : (s.withMemory b c c').runState ≠ .fault := hr
  by_cases hc : can
  · rw [whenEnabled_enabled hr hc, whenEnabled_enabled hr' (hcan.mpr hc), heff hc]
  · rw [whenEnabled_disabled hr hc, whenEnabled_disabled hr' (mt hcan.mp hc), andThen_refused]

theorem portCall_withMemory (m : String) (ps : List Pulse) (r : CallResult) (s : State) :
    portCall m ps r (s.withMemory b c c') = andThen (portCall m ps r s) (fun t => .next (t.withMemory b c c')) := by
  refine whenEnabled_withMemory Iff.rfl (fun _ => ?_)
  split <;> rfl

/-- Halted, an operation commutes with the exchange: only an accepted `START` and the bodies read the buffer or a clock, and they
do not exist there. -/
theorem State.Halted.exec_withMemory {s : State} (hs : s.Halted) (i : Instr) :
    exec i (s.withMemory b c c') = andThen (exec i s) (fun t => .next (t.withMemory b c c')) := by
  cases i with
  | start modeOk =>
    refine whenEnabled_withMemory Iff.rfl (fun _ => ?_)
    have hagain : (s.withMemory b c c').runState ≠ .reset := hs.ne_reset
    rw [startEffect_again hs.ne_reset, startEffect_again hagain]
    rfl
  | adv dt => rfl
  | stop | eGuard lvl | eAcq | eRel | eUnguard | tAcq | tRel => exact whenEnabled_withMemory Iff.rfl (fun _ => rfl)
  | tCheck | edge lvl | tick =>
    refine whenEnabled_withMemory Iff.rfl (fun hcan => ?_)
    simp [CanEdge, CanGuard, CanCheck, hs.ne_running] at hcan
  | eBody => exact whenEnabled_withMemory Iff.rfl (fun hcan => by simp [CanEdgeBody, hs.edgeIdle] at hcan)
  | tBody => exact whenEnabled_withMemory Iff.rfl (fun hcan => by simp [CanTickBody, hs.tickIdle] at hcan)
  | decode ps | isRepeat ps => exact portCall_withMemory _ ps _ s

/-- So does every run. -/
theorem State.Halted.run_withMemory {s : State} (hs : s.Halted) (is : List Instr) :
    runInstrs is (s.withMemory b c c') = andThen (runInstrs is s) (fun t => .next (t.withMemory b c c')) := by
  induction is generalizing s with
  | nil => rfl
  | cons i is ih =>
    rw [runInstrs, runInstrs, hs.exec_withMemory]
    cases hstep : exec i s with
    | next u =>
      obtain ⟨hu, -⟩ := hs.exec_keeps hstep
      exact ih hu
    | fault r => rfl
    | refused r => rfl

end

/-- Settles O21: a machine that `STOP` has halted flushes nothing more (`run_keeps`) and reads neither buffer nor clocks
(`run_withMemory`). -/
theorem bufferedPulsesDieWithStop : Obligations.BufferedPulsesDieWithStop := by
  intro s s1 is _ hstop
  obtain ⟨hcan, rfl⟩ := exec_stop_next.mp hstop
  have hhalted := halted_stopEffect hcan
  refine ⟨fun t ht => ?keeps, fun b c c' => ?swap⟩
  case keeps =>
    obtain ⟨hflush, hbuf⟩ := hhalted.run_keeps ht
    exact ⟨by simpa [flushesOf_append, flushesOf, stopEffect] using hflush, hbuf⟩
  case swap =>
    refine (hhalted.run_withMemory is).trans ?_
    cases runInstrs is (stopEffect s) <;> rfl

end Sys2Proof.Machine
end

section
/-! The host and environment operations: `START`, `STOP` and `ADV` as whole next states (spec/40_capture_engine.md R131, R132,
R160). -/

namespace Sys2Proof.Machine

/-! Where a sequence cannot begin. -/

/-- Outside `RUNNING` neither sequence begins (R133, R141, R147, R149). -/
theorem noStep_sequence_of_not_running {s : State} (hs : s.runState ≠ .running) :
    (∀ l, NoStep (exec (.eGuard l) s)) ∧ (∀ l, NoStep (exec (.edge l) s)) ∧ NoStep (exec .tCheck s) ∧ NoStep (exec .tick s) := by
  have hguard : ¬ CanGuard s := fun ⟨hrun, _⟩ => hs hrun
  have hcheck : ¬ CanCheck s := fun ⟨hrun, _⟩ => hs hrun
  have hedge : ¬ CanEdge s := fun ⟨hcan, _⟩ => hguard hcan
  exact ⟨fun _ => noStep_of_disabled hguard, fun _ => noStep_of_disabled hedge, noStep_of_disabled hcheck,
    noStep_of_disabled hcheck⟩

/-! `START`. -/

/-- A second `START` raises `DOUBLE_START`, whatever the line would answer (R131, R243). -/
theorem exec_start_again {s : State} (m : Bool) (hs : s.runState = .running ∨ s.runState = .stopped) :
    exec (.start m) s = .next (raiseFault .doubleStart s) := by
  have hreset : s.runState ≠ .reset := by obtain hr | hr := hs <;> simp [hr]
  have hfault : s.runState ≠ .fault := by obtain hr | hr := hs <;> simp [hr]
  exact exec_start_next.mpr ⟨hfault, (startEffect_again hreset).symm⟩

/-- `START` whose mode the line refuses raises `LINE_MODE` (R131). -/
theorem exec_start_lineRefused {s : State} (hs : s.runState = .reset) :
    exec (.start false) s = .next (raiseFault .lineMode (emit (.lineSetMode true true) s)) :=
  exec_start_next.mpr ⟨by simp [hs], (startEffect_lineRefused hs).symm⟩

/-- Settles O15: the three branches of `START`, and the stop of `FAULT`. -/
theorem startStep : Obligations.StartStep := by
  refine ⟨fun s hs => ?accepted, fun s hs => ?lineRefused, fun s m hs => exec_start_again m hs, fun s i hs hi => ?stuck, by decide⟩
  case accepted =>
    rw [exec_start_accepted hs]
    simp [startAccepted, emit, startedClock]
  case lineRefused =>
    rw [exec_start_lineRefused hs]
    simp [raiseFault, emit]
  case stuck =>
    intro t h
    rw [exec_inFault hs hi] at h
    cases h

/-! `STOP`. -/

/-- Settles O20: the whole effect of `STOP`, and what is left outside `RUNNING`. -/
theorem stopCompletesBetweenSequences : Obligations.StopCompletesBetweenSequences := by
  refine ⟨fun s hrun hedge htick => ?enabled, fun s hs => noStep_of_disabled hs, by decide⟩
  case enabled =>
    intro t
    have ht : t = stopEffect s := by simp [t, stopEffect, emit]
    have hstopped : t.runState = .stopped := rfl
    obtain ⟨hguard, hedge', hcheck, htick'⟩ := noStep_sequence_of_not_running (s := t) (by simp [hstopped])
    exact ⟨exec_stop_next.mpr ⟨⟨hrun, hedge, htick⟩, ht⟩, hguard, hedge', hcheck, htick', fun dt => ⟨_, rfl⟩,
      fun m => ⟨_, exec_start_again m (.inr hstopped), rfl⟩⟩

/-! `ADV`. -/

/-- An advance lengthens every elapsed time by as much, modulo `2^64` (R160, R161(a)). -/
theorem elapsed_add (now dt : U64) (c : Clock) : elapsed (now + dt) c = elapsed now c + dt :=
  add_sub_right_comm now dt c.start

theorem advance_zero (s : State) : advance 0#64 s = s := by simp [advance]

/-- Two advances are the one by their sum, but for the exact ages. -/
theorem advance_advance (x y : U64) (s : State) :
    advance y (advance x s) =
      { advance (x + y) s with pclkAge := s.pclkAge + (x.toNat + y.toNat), iclkAge := s.iclkAge + (x.toNat + y.toNat) } := by
  simp [advance, BitVec.add_assoc, Nat.add_assoc]

/-- Where the sum does not wrap the ages agree too. -/
theorem advance_advance_of_lt {x y : U64} (h : x.toNat + y.toNat < 2 ^ 64) (s : State) :
    advance y (advance x s) = advance (x + y) s := by
  rw [advance_advance, ← BitVec.toNat_add_of_lt h]
  rfl

/-- Settles O22: an advance is a sum on the timebase, so advances compose by associativity. -/
theorem advanceCompletesEverywhere : Obligations.AdvanceCompletesEverywhere := by
  intro s x y
  refine ⟨rfl, congrArg Host.Outcome.next (advance_zero s), ⟨_, _, rfl, rfl, ?ages, ?whole⟩, fun c => elapsed_add s.now x c, rfl⟩
  case ages => rw [advance_advance]
  case whole => exact fun h => advance_advance_of_lt h s

end Sys2Proof.Machine
end

section
/-! The micro-steps of the edge path as whole next states (spec/40_capture_engine.md R133 to R136, R145). -/

namespace Sys2Proof.Machine

/-- After `T_REL` a waiting `E_ACQ` finds the lock free (R134, R144). -/
theorem exec_eAcq_after_tRel {s t : State} (hphase : s.edgePhase = .guarded) (h : exec .tRel s = .next t) :
    ∃ u, exec .eAcq t = .next u := by
  obtain ⟨hfault, -, rfl⟩ := exec_tRel_next.mp h
  exact ⟨_, exec_eAcq_next.mpr ⟨hfault, ⟨hphase, rfl⟩, rfl⟩⟩

/-- Settles O23: the condition of `E_GUARD` names neither the lock nor the level before. -/
theorem guardStep : Obligations.GuardStep := by
  refine ⟨fun s lvl hrun hreg hphase => exec_eGuard_next.mpr ⟨⟨hrun, hreg, hphase⟩, rfl⟩, fun s lvl hs => noStep_of_disabled hs,
    by decide⟩

/-- Settles O24: in `E_GUARDED` the invariant leaves the lock to a tick or free. -/
theorem edgeAcquireStep : Obligations.EdgeAcquireStep := by
  refine ⟨fun s hfault hphase hlock => exec_eAcq_next.mpr ⟨hfault, ⟨hphase, hlock⟩, rfl⟩, fun s hs => noStep_of_disabled hs,
    fun s hs hphase hlock => ?holder, fun s t => exec_eAcq_after_tRel, by decide⟩
  case holder => simpa [hphase] using hs.lockEdge.mp hlock

/-- Settles O26: before `E_UNGUARD` the guard is still set, so a `T_CHECK` is dropped. -/
theorem edgeReleaseStep : Obligations.EdgeReleaseStep := by
  refine ⟨fun s hfault hphase => exec_eRel_next.mpr ⟨hfault, hphase, rfl⟩, fun s hs => noStep_of_disabled hs,
    fun s t hwait h => ?waiting, fun s t hs hrun htick h => ?dropped, by decide⟩
  case waiting =>
    obtain ⟨hfault, -, rfl⟩ := exec_eRel_next.mp h
    exact ⟨_, exec_tAcq_next.mpr ⟨hfault, ⟨hwait, rfl⟩, rfl⟩⟩
  case dropped =>
    obtain ⟨-, hdone, rfl⟩ := exec_eRel_next.mp h
    obtain ⟨-, -, -, harmed⟩ := hs.inRunning hrun
    have hguard : s.guard = true := hs.guardSet.mpr (by simp [hdone])
    exact exec_tCheck_next.mpr ⟨⟨hrun, harmed, htick⟩, (if_pos hguard).symm⟩

/-- Settles O27: the invariant keeps the callback registered in `RUNNING`, so the phase alone decides. -/
theorem unguardStep : Obligations.UnguardStep := by
  refine ⟨fun s hfault hphase => exec_eUnguard_next.mpr ⟨hfault, hphase, rfl⟩, fun s hs => noStep_of_disabled hs,
    fun s t lvl hs hrun h => ?next, by decide⟩
  case next =>
    obtain ⟨-, -, rfl⟩ := exec_eUnguard_next.mp h
    obtain ⟨-, -, hreg, -⟩ := hs.inRunning hrun
    exact ⟨_, exec_eGuard_next.mpr ⟨⟨hrun, hreg, rfl⟩, rfl⟩⟩

end Sys2Proof.Machine
end

section
/-! The edge body and `EDGE`, which runs the whole edge path (spec/40_capture_engine.md R135, R139, R147). -/

namespace Sys2Proof.Machine

/-! The edge body. -/

/-- A pulse that is not accepted has been clamped to the upper bound (R24, R138). -/
theorem constructedPulse_duration_of_gap {s : State} (hp : s.params.Legal)
    (hgap : ¬ Accepted s.params (constructedPulse s).duration) : (constructedPulse s).duration = s.params.maxElapsed :=
  BitVec.le_antisymm (clamp_le_max hp _) (BitVec.not_lt.mp hgap)

/-- Where its phase and its clock allow it, `E_BODY` is the edge body. -/
theorem exec_eBody_eq {s : State} (hfault : s.runState ≠ .fault) (hphase : s.edgePhase = .locked) (hread : PulseClockReadable s) :
    exec .eBody s = edgeBodyEffect s :=
  (whenEnabled_enabled hfault hphase).trans (edgeBody_readable hread)

/-- Settles O25: the append, the overflow and the gap are the three closed forms of the body below capacity. -/
theorem edgeBodyStep : Obligations.EdgeBodyStep := by
  refine ⟨fun s hp hfault hphase hroom hread => ?enabled, fun s hs => noStep_of_disabled hs, fun s t hs h => ?clock, by decide⟩
  case enabled =>
    intro d p iv
    rw [exec_eBody_eq hfault hphase hread]
    by_cases hacc : Accepted s.params (constructedPulse s).duration
    · have hlt : d < s.params.maxElapsed := hacc
      by_cases hfull : s.count + 1 = capacity s.params
      · rw [edgeBodyEffect_overflow hacc hroom hfull]
        simp only [if_pos hlt, if_pos hfull, List.append_assoc]
        rfl
      · rw [edgeBodyEffect_append hacc hroom hfull]
        simp only [if_pos hlt, if_neg hfull, List.append_assoc]
        rfl
    · have hge : ¬ d < s.params.maxElapsed := hacc
      rw [edgeBodyEffect_gap hacc (Nat.ne_of_lt hroom)]
      simp only [if_neg hge, List.append_assoc, gapEvents, constructedPulse_duration_of_gap hp hacc]
      rfl
  case clock =>
    obtain ⟨hfault, hlocked, -⟩ := exec_eBody_next.mp h
    obtain ⟨hclock, -⟩ := hs.inRunning (hs.running_of_edgePhase hfault (by simp [hlocked]))
    exact hclock

/-! `EDGE`. -/

/-- Behind an edge body the two last micro-steps always exist (R136, R145). -/
theorem run_release_unguard {s u : State} (hfault : s.runState ≠ .fault) (h : edgeBody s = .next u) :
    runInstrs [.eRel, .eUnguard] u = .next (unguardEffect (edgeReleaseEffect u)) := by
  obtain ⟨-, heffect⟩ := edgeBody_eq_next.mp h
  obtain ⟨b, es, rfl⟩ := edgeBodyEffect_eq_bodyState heffect
  have hrel : exec .eRel (bodyState s b es) = .next (edgeReleaseEffect (bodyState s b es)) :=
    exec_eRel_next.mpr ⟨hfault, rfl, rfl⟩
  have hunguard : exec .eUnguard (edgeReleaseEffect (bodyState s b es)) =
      .next (unguardEffect (edgeReleaseEffect (bodyState s b es))) := exec_eUnguard_next.mpr ⟨hfault, rfl, rfl⟩
  rw [runInstrs_cons_of_next hrel, runInstrs_cons_of_next hunguard, runInstrs_nil]

/-- Where its condition holds `EDGE` is the run of its five micro-steps, stops included (R147). -/
theorem exec_edge_eq_microSteps {s : State} (lvl : Bool) (hcan : CanEdge s) :
    exec (.edge lvl) s = runInstrs (Trace.edgeMicroSteps lvl) s := by
  obtain ⟨hguardable, hlock⟩ := hcan
  have hfault : s.runState ≠ .fault := by simp [hguardable.1]
  let s' := edgeAcquireEffect (guardEffect lvl s)
  have hguard : exec (.eGuard lvl) s = .next (guardEffect lvl s) := exec_eGuard_next.mpr ⟨hguardable, rfl⟩
  have hacq : exec .eAcq (guardEffect lvl s) = .next s' := exec_eAcq_next.mpr ⟨hfault, ⟨rfl, hlock⟩, rfl⟩
  have hbody : exec .eBody s' = edgeBody s' := whenEnabled_enabled hfault rfl
  calc exec (.edge lvl) s
      = andThen (edgeBody s') (fun u => .next (unguardEffect (edgeReleaseEffect u))) :=
        whenEnabled_enabled hfault ⟨hguardable, hlock⟩
    _ = andThen (edgeBody s') (runInstrs [.eRel, .eUnguard]) := by
        cases hu : edgeBody s' with
        | next u => exact (run_release_unguard (s := s') hfault hu).symm
        | fault r => rfl
        | refused r => rfl
    _ = runInstrs [.eBody, .eRel, .eUnguard] s' := by rw [runInstrs, hbody]
    _ = runInstrs (Trace.edgeMicroSteps lvl) s := by
        rw [Trace.edgeMicroSteps, runInstrs_cons_of_next hguard, runInstrs_cons_of_next hacq]

/-- Settles O28: `exec_edge_eq_microSteps`, and the state that the body between acquire and release leaves. -/
theorem edgeMacroIsItsMicroSteps : Obligations.EdgeMacroIsItsMicroSteps := by
  refine ⟨fun s lvl hrun hreg hphase hlock => ?same, fun s lvl hs => noStep_of_disabled ?disabled,
    fun s t lvl hs h => ?net, by decide⟩
  case same =>
    rw [exec_edge_eq_microSteps lvl ⟨⟨hrun, hreg, hphase⟩, hlock⟩]
    cases runInstrs (Trace.edgeMicroSteps lvl) s <;> rfl
  case disabled => exact fun ⟨⟨hrun, hreg, hphase⟩, hlock⟩ => hs ⟨hrun, hreg, hphase, hlock⟩
  case net =>
    obtain ⟨⟨⟨hrun, -, hphase⟩, hlock⟩, hread, u, hu, rfl⟩ := exec_edge_next.mp h
    have hbody : exec .eBody (edgeAcquireEffect (guardEffect lvl s)) = .next u :=
      exec_eBody_next.mpr ⟨by simp [hrun], rfl, hread, hu⟩
    have hline : u.line = lvl := by
      obtain ⟨b, es, rfl⟩ := edgeBodyEffect_eq_bodyState hu
      rfl
    exact ⟨hline, (hs.guard_eq_false_iff.mpr hphase).symm, hlock.symm, hphase.symm, u, hbody, rfl⟩

end Sys2Proof.Machine
end

section
/-! The micro-steps of the tick path, and `TICK`, which runs them all (spec/40_capture_engine.md R141 to R144, R149, R155). -/

namespace Sys2Proof.Machine

/-! The micro-steps. -/

/-- Settles O34: under its condition `T_CHECK` is dropped or moves on, as the guard says. -/
theorem checkStep : Obligations.CheckStep := by
  refine ⟨fun s hrun harmed hphase hguard => exec_tCheck_next.mpr ⟨⟨hrun, harmed, hphase⟩, (if_pos hguard).symm⟩,
    fun s hrun harmed hphase hguard => exec_tCheck_next.mpr ⟨⟨hrun, harmed, hphase⟩, (if_neg (by simp [hguard])).symm⟩,
    fun s hs => noStep_of_disabled hs, by decide⟩

/-- Behind an edge body a tick that has waited finds the idle clock as old as the advance, and does nothing below `GapUsecs`. -/
theorem idleFlush_not_due_after_edgeBody {s : State} {b : List Pulse} {es : List Event} {dt : U64} (hdt : dt < s.params.gapUsecs) :
    ¬ IdleFlushDue (advance dt (tickAcquireEffect (edgeReleaseEffect (bodyState s b es)))) := by
  rintro ⟨-, hgap, -⟩
  have helapsed : elapsed (s.now + dt) (startedClock s.now) = dt := add_sub_cancel_left s.now dt
  exact BitVec.not_le.mpr hdt (helapsed ▸ hgap)

/-- Settles O35: the four operations behind the edge body one after another, the last with no flush due. -/
theorem tickAcquireStep : Obligations.TickAcquireStep := by
  refine ⟨fun s hfault hphase hlock => exec_tAcq_next.mpr ⟨hfault, ⟨hphase, hlock⟩, rfl⟩, fun s hs => noStep_of_disabled hs,
    fun s t dt hwait h hdt => ?waited, by decide⟩
  case waited =>
    obtain ⟨hfault, -, -, heffect⟩ := exec_eBody_next.mp h
    obtain ⟨b, es, rfl⟩ := edgeBodyEffect_eq_bodyState heffect
    let t1 := edgeReleaseEffect (bodyState s b es)
    let t2 := tickAcquireEffect t1
    let t3 := advance dt t2
    have hrel : exec .eRel (bodyState s b es) = .next t1 := exec_eRel_next.mpr ⟨hfault, rfl, rfl⟩
    have hacq : exec .tAcq t1 = .next t2 := exec_tAcq_next.mpr ⟨hfault, ⟨hwait, rfl⟩, rfl⟩
    have hage : t3.iclkAge < 2 ^ 64 := by simpa [t3, t2, t1, bodyState, advance] using dt.isLt
    have hbody : exec .tBody t3 = .next { t3 with tickPhase := .done } :=
      exec_tBody_next.mpr ⟨hfault, rfl, .inr hage, (tickBodyEffect_notDue (idleFlush_not_due_after_edgeBody hdt)).symm⟩
    refine ⟨{ t3 with tickPhase := .done }, ?_, rfl, rfl, rfl, rfl, rfl⟩
    rw [runInstrs_cons_of_next hrel, runInstrs_cons_of_next hacq, runInstrs_cons_of_next (u := t3) rfl,
      runInstrs_cons_of_next hbody, runInstrs_nil]

/-- Settles O36: each row of R155 decides whether the flush is due. -/
theorem tickBodyStep : Obligations.TickBodyStep := by
  refine ⟨fun s hfault hphase => ⟨fun hstop => ?stopped, fun _ hage hgap => ?early, fun _ hage _ hempty => ?empty,
    fun hclock hage hgap hcount => ?flush⟩, fun s hs => noStep_of_disabled hs, by decide⟩
  case stopped =>
    have hdue : ¬ IdleFlushDue s := fun ⟨hclock, _⟩ => by simp [hstop] at hclock
    exact exec_tBody_next.mpr ⟨hfault, hphase, .inl hstop, (tickBodyEffect_notDue hdue).symm⟩
  case early =>
    have hdue : ¬ IdleFlushDue s := fun ⟨_, hreached, _⟩ => BitVec.not_le.mpr hgap hreached
    exact exec_tBody_next.mpr ⟨hfault, hphase, .inr hage, (tickBodyEffect_notDue hdue).symm⟩
  case empty =>
    have hdue : ¬ IdleFlushDue s := fun ⟨_, _, hsome⟩ => hsome hempty
    exact exec_tBody_next.mpr ⟨hfault, hphase, .inr hage, (tickBodyEffect_notDue hdue).symm⟩
  case flush =>
    have hdue : IdleFlushDue s := ⟨hclock, hgap, Nat.ne_of_gt hcount⟩
    exact exec_tBody_next.mpr ⟨hfault, hphase, .inr hage, (tickBodyEffect_due hdue).symm⟩

/-- Settles O37: `T_REL` frees the lock, and the free lock is what `E_ACQ` waits for. -/
theorem tickReleaseStep : Obligations.TickReleaseStep := by
  refine ⟨fun s hfault hphase => exec_tRel_next.mpr ⟨hfault, hphase, rfl⟩, fun s hs => noStep_of_disabled hs,
    fun s t => exec_eAcq_after_tRel, by decide⟩

/-! `TICK`. -/

/-- Behind a tick body the last micro-step always exists (R144). -/
theorem run_tRel_after_tickBody {s u : State} (hfault : s.runState ≠ .fault) (h : tickBody s = .next u) :
    runInstrs [.tRel] u = .next (tickReleaseEffect u) := by
  obtain ⟨-, rfl⟩ := tickBody_eq_next.mp h
  obtain ⟨b, es, c, hframe⟩ := tickBodyEffect_frame s
  have hrel : exec .tRel (tickBodyEffect s) = .next (tickReleaseEffect (tickBodyEffect s)) :=
    exec_tRel_next.mpr ⟨by rw [hframe]; exact hfault, by rw [CanTickRelease, hframe], rfl⟩
  rw [runInstrs_cons_of_next hrel, runInstrs_nil]

/-- With the guard clear and the lock free `TICK` is the run of its four micro-steps, stops included (R149). -/
theorem exec_tick_eq_microSteps {s : State} (hcan : CanCheck s) (hguard : s.guard = false) (hlock : s.lock = .free) :
    exec .tick s = runInstrs Trace.tickMicroSteps s := by
  have hfault : s.runState ≠ .fault := by simp [hcan.1]
  let s1 : State := { s with tickPhase := .wait }
  let s2 := tickAcquireEffect s1
  have hmove : checkEffect s = s1 := if_neg (by simp [hguard])
  have hcheck : exec .tCheck s = .next s1 := exec_tCheck_next.mpr ⟨hcan, hmove.symm⟩
  have hacq : exec .tAcq s1 = .next s2 := exec_tAcq_next.mpr ⟨hfault, ⟨rfl, hlock⟩, rfl⟩
  have hbody : exec .tBody s2 = tickBody s2 := whenEnabled_enabled hfault rfl
  calc exec .tick s
      = whenEnabled "TICK" (CanTickAcquire s1) s1 (andThen (tickBody s2) (fun u => .next (tickReleaseEffect u))) := by
        refine (whenEnabled_enabled hfault hcan).trans ?_
        rw [if_neg (by simp [hguard]), hmove]
    _ = andThen (tickBody s2) (fun u => .next (tickReleaseEffect u)) := whenEnabled_enabled hfault ⟨rfl, hlock⟩
    _ = andThen (tickBody s2) (runInstrs [.tRel]) := by
        cases hu : tickBody s2 with
        | next u => exact (run_tRel_after_tickBody (s := s2) hfault hu).symm
        | fault r => rfl
        | refused r => rfl
    _ = runInstrs [.tBody, .tRel] s2 := by rw [runInstrs, hbody]
    _ = runInstrs Trace.tickMicroSteps s := by
        rw [Trace.tickMicroSteps, runInstrs_cons_of_next hcheck, runInstrs_cons_of_next hacq]

/-- The net effect of a tick that is served: the flush if it is due, with lock and phase as they began (R149). -/
theorem tick_service_eq {s : State} (hphase : s.tickPhase = .idle) (hlock : s.lock = .free) :
    tickReleaseEffect (tickBodyEffect (tickAcquireEffect { s with tickPhase := .wait })) =
      if IdleFlushDue s then { flush .idle s with iclk := stoppedClock s.iclk } else s := by
  have hidle : { s with lock := .free, tickPhase := .idle } = s := by rw [← hphase, ← hlock]
  let s' := tickAcquireEffect { s with tickPhase := .wait }
  by_cases hdue : IdleFlushDue s
  · have hdue' : IdleFlushDue s' := hdue
    rw [if_pos hdue, tickBodyEffect_due hdue']
    exact congrArg (fun u => { flush .idle u with iclk := stoppedClock u.iclk }) hidle
  · have hdue' : ¬ IdleFlushDue s' := hdue
    rw [if_neg hdue, tickBodyEffect_notDue hdue']
    exact hidle

/-- Settles O38: with both phases idle the lock is free, so a tick that is not dropped is served whole. -/
theorem tickMacroCompletes : Obligations.TickMacroCompletes := by
  refine ⟨fun s hs hrun hphase => ?enabled, fun s hs => noStep_of_disabled hs, by decide⟩
  case enabled =>
    obtain ⟨-, -, -, harmed⟩ := hs.inRunning hrun
    have hcan : CanCheck s := ⟨hrun, harmed, hphase⟩
    have hlock (hguard : s.guard = false) : s.lock = .free :=
      hs.lock_free_of_idle (hs.guard_eq_false_iff.mp hguard) hphase
    refine ⟨fun hguard => exec_tick_next.mpr ⟨hcan, .inl ⟨hguard, rfl⟩⟩,
      fun hguard => exec_tick_eq_microSteps hcan hguard (hlock hguard), fun hguard hread => ?_⟩
    exact exec_tick_next.mpr ⟨hcan, .inr ⟨hguard, hlock hguard, hread, (tick_service_eq hphase (hlock hguard)).symm⟩⟩

end Sys2Proof.Machine
end

section
/-! The classes of a pulse (R190, R211): the comparator tree answers a class exactly when its window holds. -/

namespace Sys2Proof.Nec

theorem classify_rmark (d : U64) : (classify d == .rmark) = inRepeatMark d := by
  rcases classify_cases d with h | h | h | h | h <;> simp [h]

theorem classify_eq_short_iff {d : U64} : classify d = .short ↔ inShort d = true := by
  rw [← classify_short, beq_iff_eq]

theorem classify_eq_space_iff {d : U64} : classify d = .space ↔ inSpace d = true := by
  rw [← classify_space, beq_iff_eq]

theorem classify_eq_mark_iff {d : U64} : classify d = .mark ↔ inMark d = true := by
  rw [← classify_mark, beq_iff_eq]

theorem classify_eq_rmark_iff {d : U64} : classify d = .rmark ↔ inRepeatMark d = true := by
  rw [← classify_rmark, beq_iff_eq]

/-! The named pulses (R195, R197 to R200): a level and a class. -/

theorem isLeader_iff {p : Pulse} : isLeader p = true ↔ p.level = true ∧ classify p.duration = .space := by
  rw [isLeader, Bool.and_eq_true, classify_eq_space_iff]

theorem isHeaderMark_iff {p : Pulse} : isHeaderMark p = true ↔ p.level = false ∧ classify p.duration = .mark := by
  rw [isHeaderMark, Bool.and_eq_true, Bool.not_eq_true', classify_eq_mark_iff]

theorem isRepeatMark_iff {p : Pulse} : isRepeatMark p = true ↔ p.level = false ∧ classify p.duration = .rmark := by
  rw [isRepeatMark, Bool.and_eq_true, Bool.not_eq_true', classify_eq_rmark_iff]

theorem isShortHigh_iff {p : Pulse} : isShortHigh p = true ↔ p.level = true ∧ classify p.duration = .short := by
  rw [isShortHigh, Bool.and_eq_true, classify_eq_short_iff]

/-- Settles O52: the windows do not meet (`classify_cases`), so the tree's order of tests hides none of them, and each named pulse is
a level together with one class. -/
theorem classesAreTheWindows : Obligations.ClassesAreTheWindows := by
  refine ⟨fun d => ⟨?short, ?space, ?mark, ?rmark⟩,
    fun p => ⟨isLeader_iff, isHeaderMark_iff, isRepeatMark_iff, isShortHigh_iff⟩⟩
  case short => exact classify_eq_short_iff.trans inShort_iff
  case space => exact classify_eq_space_iff.trans inSpace_iff
  case mark => exact classify_eq_mark_iff.trans inMark_iff
  case rmark => exact classify_eq_rmark_iff.trans inRepeatMark_iff

end Sys2Proof.Nec
end

section
/-! Faults and run states (spec/60_exceptions.md R241 to R243, R250): only `START` raises a fault, a fault stands, and only `START` and
`STOP` move the run state. -/

namespace Sys2Proof.Machine

/-! What every operation but `START` and `STOP` keeps. -/

/-- Run state and fault code stand, and no fault is among the events appended. -/
structure State.FaultFrame (s t : State) : Prop where
  runState  : t.runState = s.runState
  faultCode : t.faultCode = s.faultCode
  events    : ∃ es, t.out = s.out ++ es ∧ ∀ c, Event.fault c ∉ es

theorem State.FaultFrame.of_out_eq {s t : State} (hrun : t.runState = s.runState) (hcode : t.faultCode = s.faultCode)
    (hout : t.out = s.out) : s.FaultFrame t :=
  ⟨hrun, hcode, [], by simpa using hout, by simp⟩

theorem fault_notMem_gapEvents (c : FaultCode) (s : State) : Event.fault c ∉ gapEvents s := by
  cases hg : s.params.reportGapPulse <;> simp [gapEvents, hg]

/-- An edge body reports pulses, a flush and the scheduler's rearming, and no fault (R151). -/
theorem edgeBodyEffect_faultFrame {s t : State} (h : edgeBodyEffect s = .next t) : s.FaultFrame t := by
  obtain ⟨b, es, rfl, hcase⟩ := edgeBodyEffect_inv h
  refine ⟨rfl, rfl, _, rfl, fun c => ?_⟩
  obtain ⟨-, -, -, rfl⟩ | ⟨-, -, -, rfl⟩ | ⟨-, -, -, rfl⟩ | ⟨-, -, -, rfl⟩ := hcase <;> simp [fault_notMem_gapEvents]

theorem tickBodyEffect_faultFrame (s : State) : s.FaultFrame (tickBodyEffect s) := by
  obtain ⟨-, hbody⟩ | ⟨-, hbody⟩ := tickBodyEffect_cases s <;> rw [hbody]
  · exact ⟨rfl, rfl, [_], rfl, by simp⟩
  · exact .of_out_eq rfl rfl rfl

theorem checkEffect_faultFrame (s : State) : s.FaultFrame (checkEffect s) := by
  obtain ⟨-, hcheck⟩ | ⟨-, hcheck⟩ := checkEffect_cases s <;> rw [hcheck] <;> exact .of_out_eq rfl rfl rfl

/-- Every operation but `START` and `STOP` leaves run state and fault code and raises nothing (R242, R250). -/
theorem exec_faultFrame {i : Instr} {s t : State} (hstart : ∀ m, i ≠ .start m) (hstop : i ≠ .stop) (h : exec i s = .next t) :
    s.FaultFrame t := by
  cases i with
  | start modeOk => exact absurd rfl (hstart modeOk)
  | stop => exact absurd rfl hstop
  | adv dt => obtain rfl := exec_adv_next.mp h; exact .of_out_eq rfl rfl rfl
  | edge lvl =>
    obtain ⟨-, -, u, hu, rfl⟩ := exec_edge_next.mp h
    obtain ⟨hrun, hcode, hevents⟩ := edgeBodyEffect_faultFrame hu
    exact ⟨hrun, hcode, hevents⟩
  | tick =>
    obtain ⟨-, ⟨-, rfl⟩ | ⟨-, -, -, rfl⟩⟩ := exec_tick_next.mp h
    · exact .of_out_eq rfl rfl rfl
    · obtain ⟨hrun, hcode, hevents⟩ := tickBodyEffect_faultFrame (tickAcquireEffect { s with tickPhase := .wait })
      exact ⟨hrun, hcode, hevents⟩
  | eBody =>
    obtain ⟨-, -, -, hbody⟩ := exec_eBody_next.mp h
    exact edgeBodyEffect_faultFrame hbody
  | tCheck => obtain ⟨-, rfl⟩ := exec_tCheck_next.mp h; exact checkEffect_faultFrame s
  | tBody => obtain ⟨-, -, -, rfl⟩ := exec_tBody_next.mp h; exact tickBodyEffect_faultFrame s
  | eGuard lvl => obtain ⟨-, rfl⟩ := exec_eGuard_next.mp h; exact .of_out_eq rfl rfl rfl
  | eAcq => obtain ⟨-, -, rfl⟩ := exec_eAcq_next.mp h; exact .of_out_eq rfl rfl rfl
  | eRel => obtain ⟨-, -, rfl⟩ := exec_eRel_next.mp h; exact .of_out_eq rfl rfl rfl
  | eUnguard => obtain ⟨-, -, rfl⟩ := exec_eUnguard_next.mp h; exact .of_out_eq rfl rfl rfl
  | tAcq => obtain ⟨-, -, rfl⟩ := exec_tAcq_next.mp h; exact .of_out_eq rfl rfl rfl
  | tRel => obtain ⟨-, -, rfl⟩ := exec_tRel_next.mp h; exact .of_out_eq rfl rfl rfl
  | decode ps => obtain ⟨-, -, rfl⟩ := exec_decode_next.mp h; exact .of_out_eq rfl rfl rfl
  | isRepeat ps => obtain ⟨-, -, rfl⟩ := exec_isRepeat_next.mp h; exact .of_out_eq rfl rfl rfl

/-! The fault causes. -/

/-- What raising a fault would show between two states: `FAULT` entered, the code changed, or a fault reported alone. -/
def State.FaultShown (s t : State) : Prop :=
  (t.runState = .fault ∧ s.runState ≠ .fault) ∨ t.faultCode ≠ s.faultCode ∨ ∃ c, t.out = s.out ++ [.fault c]

theorem State.FaultFrame.not_faultShown {s t : State} (h : s.FaultFrame t) : ¬ s.FaultShown t := by
  obtain ⟨hrun, hcode, es, hout, hes⟩ := h
  rintro (⟨hfault, hbefore⟩ | hchanged | ⟨c, hshown⟩)
  · exact hbefore (hrun.symm.trans hfault)
  · exact hchanged hcode
  · have hlist : es = [.fault c] := List.append_cancel_left (hout.symm.trans hshown)
    exact hes c (by simp [hlist])

theorem not_faultShown_stopEffect (s : State) : ¬ s.FaultShown (stopEffect s) := by
  simp [State.FaultShown]

theorem not_faultShown_startAccepted (s : State) : ¬ s.FaultShown (startAccepted (emit (.lineSetMode true true) s)) := by
  simp [State.FaultShown]

/-- A `START` that shows a fault is one of the two causes, with its code (R242, R243). -/
theorem start_fault_cause {m : Bool} {s t : State} (h : exec (.start m) s = .next t) (hshown : s.FaultShown t) :
    (t.faultCode = .doubleStart ∧ (s.runState = .running ∨ s.runState = .stopped)) ∨
      (t.faultCode = .lineMode ∧ m = false ∧ s.runState = .reset) := by
  obtain ⟨hfault, rfl⟩ := exec_start_next.mp h
  obtain ⟨hreset, heffect⟩ | ⟨-, -, heffect⟩ | ⟨hreset, hm, heffect⟩ := startEffect_cases m s <;> rw [heffect] at hshown ⊢
  · refine .inl ⟨rfl, ?_⟩
    cases hr : s.runState with
    | running => exact .inl rfl
    | stopped => exact .inr rfl
    | reset => exact absurd hr hreset
    | fault => exact absurd hr hfault
  · exact absurd hshown (not_faultShown_startAccepted s)
  · exact .inr ⟨rfl, hm, hreset⟩

/-- Settles O16: the two causes are branches of `START`, and no other operation shows a fault (`exec_faultFrame`). -/
theorem faultCausesAreComplete : Obligations.FaultCausesAreComplete := by
  obtain ⟨-, hlineRefused, hagain, -, -⟩ := startStep
  refine ⟨hagain, hlineRefused, fun i s t h hshown => ?only⟩
  case only =>
    by_cases hstart : ∃ m, i = .start m
    · obtain ⟨m, rfl⟩ := hstart
      exact ⟨m, rfl, start_fault_cause h hshown⟩
    by_cases hstop : i = .stop
    · subst hstop
      obtain ⟨-, rfl⟩ := exec_stop_next.mp h
      exact absurd hshown (not_faultShown_stopEffect s)
    · exact absurd hshown (exec_faultFrame (not_exists.mp hstart) hstop h).not_faultShown

/-! A fault stands. -/

theorem noStep_inFault {i : Instr} {s : State} (hs : s.runState = .fault) (hi : ∀ dt, i ≠ .adv dt) : NoStep (exec i s) := by
  intro t h
  rw [exec_inFault hs hi] at h
  cases h

/-- In `FAULT` what answers is an `ADV` (R156, R241). -/
theorem exec_next_inFault {i : Instr} {s t : State} (hs : s.runState = .fault) (h : exec i s = .next t) :
    ∃ dt, t = advance dt s := by
  by_cases hadv : ∃ dt, i = .adv dt
  · obtain ⟨dt, rfl⟩ := hadv
    exact ⟨dt, exec_adv_next.mp h⟩
  · exact absurd h (noStep_inFault hs (not_exists.mp hadv) t)

theorem exec_keeps_fault {i : Instr} {s t : State} (hs : s.runState = .fault) (h : exec i s = .next t) :
    t.runState = .fault ∧ t.faultCode = s.faultCode := by
  obtain ⟨dt, rfl⟩ := exec_next_inFault hs h
  exact ⟨hs, rfl⟩

/-- Settles O17: in `FAULT` only `ADV` answers, and under the invariant a fault code that is set means `FAULT`. -/
theorem faultIsSticky : Obligations.FaultIsSticky := by
  refine ⟨fun c s => rfl, fun s m hs => exec_start_again m hs, fun s hs => exec_start_lineRefused hs,
    fun s dt hs => ⟨advance dt s, rfl, rfl⟩, fun i s hs hi => noStep_inFault hs hi, fun i s t hs h => exec_keeps_fault hs h,
    fun i s t hs hset h => ?codeStands⟩
  case codeStands =>
    have hfault : s.runState = .fault := hs.inFault.mpr hset
    exact (exec_keeps_fault hfault h).2

/-! The run states. -/

/-- Settles O18: each row is a branch of `START` or `STOP`, and the rest is `exec_faultFrame`. -/
theorem runStateTransitions : Obligations.RunStateTransitions := by
  refine ⟨fun s hs => ⟨_, exec_start_accepted hs, rfl⟩, fun s hs => ⟨_, exec_start_lineRefused hs, rfl, rfl⟩,
    fun s m hs => ?startInRunning, fun s hrun hedge htick => ?stop, fun s m hs => ?startInStopped,
    fun i s t hs h => (exec_keeps_fault hs h).1, fun p now line a b c d e f g => rfl, fun i s t hstart hstop h => ?others⟩
  case startInRunning => exact ⟨_, exec_start_again m (.inl hs), rfl, rfl⟩
  case stop => exact ⟨_, exec_stop_next.mpr ⟨⟨hrun, hedge, htick⟩, rfl⟩, rfl⟩
  case startInStopped => exact ⟨_, exec_start_again m (.inr hs), rfl, rfl⟩
  case others => exact (exec_faultFrame hstart hstop h).runState

end Sys2Proof.Machine
end

section
/-! The reset values that nothing reads (spec/70_reset_and_hazards.md R281): with them erased an operation still ends the same way,
because the one value it could read too early, the start of a pulse clock that does not run, is read only by an edge body, and no
edge sequence is in service before the pulse clock runs. -/

namespace Sys2Proof.Machine

/-! What is read. -/

/-- A clock as it is read: while it does not run, its start is erased (R27). -/
def Clock.shown (c : Clock) : Clock := { c with start := if c.running then c.start else 0#64 }

theorem Clock.shown_shown (c : Clock) : c.shown.shown = c.shown := by
  obtain ⟨running, start⟩ := c
  cases running <;> rfl

theorem Clock.shown_of_running {c : Clock} (h : c.running = true) : c.shown = c := by
  rw [Clock.shown, if_pos h]

/-- Clocks that show the same and run have the same start. -/
theorem Clock.start_eq_of_shown_eq {c d : Clock} (h : c.shown = d.shown) (hc : c.running = true) : c.start = d.start := by
  have hd : d.running = true := (congrArg Clock.running h).symm.trans hc
  rw [Clock.shown_of_running hc, Clock.shown_of_running hd] at h
  exact congrArg Clock.start h

/-- A state with the values erased that R281 leaves unspecified and nothing reads before writing. -/
def readView (s : State) : State :=
  { s with pclk := s.pclk.shown, iclk := s.iclk.shown, schedIntervalMs := 0#32, nec := State.reset.nec }

theorem readView_readView (s : State) : readView (readView s) = readView s := by
  simp [readView, Clock.shown_shown]

/-- States with one view agree in all that `SameButUnread` names. -/
theorem sameButUnread_of_readView_eq {s t : State} (h : readView s = readView t) : SameButUnread s t := by
  have agree {α : Type} (f : State → α) : f (readView s) = f (readView t) := congrArg f h
  exact {
    params     := agree State.params
    now        := agree State.now
    line       := agree State.line
    runState   := agree State.runState
    faultCode  := agree State.faultCode
    pclkRun    := agree (fun u => u.pclk.running)
    pclkStart  := Clock.start_eq_of_shown_eq (agree State.pclk)
    iclkRun    := agree (fun u => u.iclk.running)
    iclkStart  := Clock.start_eq_of_shown_eq (agree State.iclk)
    buf        := agree State.buf
    guardEq    := agree State.guard
    lock       := agree State.lock
    edgePhase  := agree State.edgePhase
    tickPhase  := agree State.tickPhase
    armed      := agree State.schedArmed
    configured := agree State.lineConfigured
    registered := agree State.edgeCbRegistered
    out        := agree State.out
    pclkAge    := agree State.pclkAge
    iclkAge    := agree State.iclkAge
    results    := agree State.results
    draws      := agree State.draws
    port       := agree State.port }

/-! Outcomes. -/

/-- An outcome with the unread values erased from the state it answers. -/
def outcomeView (o : Result) : Result := andThen o (fun t => .next (readView t))

/-- Outcomes with one view are next states with one view, or the same stop. -/
theorem outcomeView_eq_cases {o o' : Result} (h : outcomeView o = outcomeView o') :
    (∃ u v, o = .next u ∧ o' = .next v ∧ readView u = readView v) ∨ (o = o' ∧ NoStep o) := by
  cases o with
  | next u =>
    obtain ⟨v, hv, hview⟩ := andThen_eq_next.mp h.symm
    exact .inl ⟨u, v, rfl, hv, (Host.Outcome.next.inj hview).symm⟩
  | fault r | refused r =>
    refine .inr ⟨?_, by simp [NoStep]⟩
    cases o' <;> simp_all [outcomeView]

/-- A step that answers a view of a state ends as one that answers the state. -/
theorem outcomeView_next_of_eq {t u : State} (h : t = readView u) : outcomeView (.next t) = outcomeView (.next u) := by
  rw [h]
  exact congrArg Host.Outcome.next (readView_readView u)

/-- A change of state that reads nothing unread keeps outcomes with one view together. -/
theorem outcomeView_andThen_congr {f : State → State} {o o' : Result} (hf : ∀ u, f (readView u) = readView (f u))
    (h : outcomeView o = outcomeView o') :
    outcomeView (andThen o (fun u => .next (f u))) = outcomeView (andThen o' (fun u => .next (f u))) := by
  obtain ⟨u, v, rfl, rfl, huv⟩ | ⟨rfl, -⟩ := outcomeView_eq_cases h
  · exact congrArg Host.Outcome.next ((hf u).symm.trans ((congrArg f huv).trans (hf v)))
  · rfl

/-- A guarded step ends the same way on the view where its condition and its effect do. -/
theorem whenEnabled_readView {m : String} {can can' : Prop} [Decidable can] [Decidable can'] {s : State} {e e' : Result}
    (hcan : can' ↔ can) (heff : can → outcomeView e' = outcomeView e) :
    outcomeView (whenEnabled m can' (readView s) e') = outcomeView (whenEnabled m can s e) := by
  by_cases hr : s.runState = .fault
  · rw [whenEnabled_inFault hr, whenEnabled_inFault (show (readView s).runState = .fault from hr)]
  have hr' : (readView s).runState ≠ .fault := hr
  by_cases hc : can
  · rw [whenEnabled_enabled hr hc, whenEnabled_enabled hr' (hcan.mpr hc), heff hc]
  · rw [whenEnabled_disabled hr hc, whenEnabled_disabled hr' (mt hcan.mp hc)]

/-! `START` and the bodies on the view. -/

theorem startEffect_readView (m : Bool) (s : State) : readView (startEffect m (readView s)) = readView (startEffect m s) := by
  by_cases hr : s.runState = .reset
  · have hr' : (readView s).runState = .reset := hr
    cases m
    · rw [startEffect_lineRefused hr, startEffect_lineRefused hr']
      exact readView_readView (raiseFault .lineMode (emit (.lineSetMode true true) s))
    · rw [startEffect_accepted hr, startEffect_accepted hr']; rfl
  · have hr' : (readView s).runState ≠ .reset := hr
    rw [startEffect_again hr, startEffect_again hr']
    exact readView_readView (raiseFault .doubleStart s)

/-- An edge body writes the idle clock and the scheduler interval before anything reads them, and leaves the decoder registers. -/
theorem edgeBodyEffect_unread (s : State) (c : Clock) (n : U32) (g : NecRegs) :
    edgeBodyEffect { s with iclk := c, schedIntervalMs := n, nec := g } =
      andThen (edgeBodyEffect s) (fun u => .next { u with nec := g }) := by
  by_cases ha : Accepted s.params (constructedPulse s).duration
  · by_cases hr : HasRoom s
    · by_cases hc : s.count + 1 = capacity s.params
      · rw [edgeBodyEffect_overflow ha hr hc]; exact edgeBodyEffect_overflow ha hr hc
      · rw [edgeBodyEffect_append ha hr hc]; exact edgeBodyEffect_append ha hr hc
    · rw [edgeBodyEffect_undefined ha hr]; exact edgeBodyEffect_undefined ha hr
  · by_cases hc : s.count = capacity s.params
    · rw [edgeBodyEffect_gap_full ha hc]; exact edgeBodyEffect_gap_full ha hc
    · rw [edgeBodyEffect_gap ha hc]; exact edgeBodyEffect_gap ha hc

theorem edgeBody_readView {s : State} (hrun : s.pclk.running = true) :
    outcomeView (edgeBody (readView s)) = outcomeView (edgeBody s) := by
  by_cases hread : PulseClockReadable s
  · have hread' : PulseClockReadable (readView s) := hread
    rw [edgeBody_readable hread, edgeBody_readable hread']
    simp only [readView, Clock.shown_of_running hrun, edgeBodyEffect_unread]
    cases edgeBodyEffect s <;> rfl
  · have hread' : ¬ PulseClockReadable (readView s) := hread
    rw [edgeBody_overrun hread, edgeBody_overrun hread']

theorem idleFlushDue_readView (s : State) : IdleFlushDue (readView s) ↔ IdleFlushDue s := by
  refine and_congr_right (fun hrun : s.iclk.running = true => ?_)
  have hclk : (readView s).iclk = s.iclk := Clock.shown_of_running hrun
  rw [hclk]
  exact Iff.rfl

theorem tickBody_readView (s : State) : outcomeView (tickBody (readView s)) = outcomeView (tickBody s) := by
  by_cases hread : IdleClockReadable s
  · have hread' : IdleClockReadable (readView s) := hread
    rw [tickBody_readable hread, tickBody_readable hread']
    by_cases hdue : IdleFlushDue s
    · rw [tickBodyEffect_due hdue, tickBodyEffect_due ((idleFlushDue_readView s).mpr hdue)]
      exact congrArg Host.Outcome.next (readView_readView { flush .idle s with iclk := stoppedClock s.iclk, tickPhase := .done })
    · rw [tickBodyEffect_notDue hdue, tickBodyEffect_notDue (mt (idleFlushDue_readView s).mp hdue)]
      exact outcomeView_next_of_eq rfl
  · have hread' : ¬ IdleClockReadable (readView s) := hread
    rw [tickBody_overrun hread, tickBody_overrun hread']

theorem checkEffect_readView (s : State) : checkEffect (readView s) = readView (checkEffect s) := by
  have hguard : (readView s).guard = s.guard := rfl
  cases hg : s.guard <;> rw [checkEffect, checkEffect, hguard, hg] <;> rfl

theorem portCall_readView (m : String) (ps : List Pulse) (r : CallResult) (s : State) :
    outcomeView (portCall m ps r (readView s)) = outcomeView (portCall m ps r s) := by
  refine whenEnabled_readView Iff.rfl (fun _ => ?_)
  split
  · rfl
  · exact congrArg Host.Outcome.next (readView_readView (finishCall r s))

theorem execTick_readView (s : State) : outcomeView (execTick (readView s)) = outcomeView (execTick s) := by
  refine whenEnabled_readView Iff.rfl (fun _ => ?_)
  rw [checkEffect_readView]
  by_cases hguard : s.guard = true
  · rw [if_pos hguard, if_pos (show (readView s).guard = true from hguard)]
    exact outcomeView_next_of_eq rfl
  · rw [if_neg hguard, if_neg (show ¬ (readView s).guard = true from hguard)]
    refine whenEnabled_readView Iff.rfl (fun _ => ?_)
    exact outcomeView_andThen_congr (fun _ => rfl) (tickBody_readView (tickAcquireEffect (checkEffect s)))

/-! The pulse clock runs before an edge body reads it. -/

/-- In `RUNNING`, and while an edge sequence is in service, the pulse clock runs. -/
def State.PulseTimed (s : State) : Prop := s.runState = .running ∨ s.edgePhase ≠ .idle → s.pclk.running = true

theorem pulseTimed_of_reset {s : State} (hr : s.runState = .reset) (hphase : s.edgePhase = .idle) : s.PulseTimed := by
  simp [State.PulseTimed, hr, hphase]

theorem edgeBodyEffect_pclk_running {s t : State} (h : edgeBodyEffect s = .next t) : t.pclk.running = s.pclk.running := by
  obtain ⟨b, es, rfl⟩ := edgeBodyEffect_eq_bodyState h
  rfl

theorem startEffect_pulseTimed {s : State} (hs : s.PulseTimed) (m : Bool) : (startEffect m s).PulseTimed := by
  obtain ⟨-, heffect⟩ | ⟨-, -, heffect⟩ | ⟨-, -, heffect⟩ := startEffect_cases m s <;> rw [heffect]
  · exact fun hin => hs (.inr (hin.resolve_left (by simp)))
  · exact fun _ => rfl
  · exact fun hin => hs (.inr (hin.resolve_left (by simp)))

theorem tickBodyEffect_pulseTimed {s : State} (hs : s.PulseTimed) : (tickBodyEffect s).PulseTimed := by
  obtain ⟨b, es, c, hbody⟩ := tickBodyEffect_frame s
  rw [hbody]
  exact hs

theorem exec_keeps_pulseTimed {i : Instr} {s t : State} (hs : s.PulseTimed) (h : exec i s = .next t) : t.PulseTimed := by
  cases i with
  | start modeOk => obtain ⟨-, rfl⟩ := exec_start_next.mp h; exact startEffect_pulseTimed hs modeOk
  | stop => obtain ⟨⟨hrun, -⟩, rfl⟩ := exec_stop_next.mp h; exact fun _ => hs (.inl hrun)
  | adv dt => obtain rfl := exec_adv_next.mp h; exact hs
  | edge lvl =>
    obtain ⟨⟨⟨hrun, -⟩, -⟩, -, u, hu, rfl⟩ := exec_edge_next.mp h
    exact fun _ => (edgeBodyEffect_pclk_running hu).trans (hs (.inl hrun))
  | eGuard lvl => obtain ⟨⟨hrun, -⟩, rfl⟩ := exec_eGuard_next.mp h; exact fun _ => hs (.inl hrun)
  | eAcq => obtain ⟨-, ⟨hphase, -⟩, rfl⟩ := exec_eAcq_next.mp h; exact fun _ => hs (.inr (by simp [hphase]))
  | eBody =>
    obtain ⟨-, hphase, -, hbody⟩ := exec_eBody_next.mp h
    exact fun _ => (edgeBodyEffect_pclk_running hbody).trans (hs (.inr (by simp [hphase])))
  | eRel => obtain ⟨-, hphase, rfl⟩ := exec_eRel_next.mp h; exact fun _ => hs (.inr (by simp [hphase]))
  | eUnguard => obtain ⟨-, hphase, rfl⟩ := exec_eUnguard_next.mp h; exact fun _ => hs (.inr (by simp [hphase]))
  | tick =>
    obtain ⟨-, ⟨-, rfl⟩ | ⟨-, -, -, rfl⟩⟩ := exec_tick_next.mp h
    · exact hs
    · exact tickBodyEffect_pulseTimed (s := tickAcquireEffect { s with tickPhase := .wait }) hs
  | tCheck =>
    obtain ⟨-, rfl⟩ := exec_tCheck_next.mp h
    obtain ⟨-, hcheck⟩ | ⟨-, hcheck⟩ := checkEffect_cases s <;> rw [hcheck] <;> exact hs
  | tAcq => obtain ⟨-, -, rfl⟩ := exec_tAcq_next.mp h; exact hs
  | tBody => obtain ⟨-, -, -, rfl⟩ := exec_tBody_next.mp h; exact tickBodyEffect_pulseTimed hs
  | tRel => obtain ⟨-, -, rfl⟩ := exec_tRel_next.mp h; exact hs
  | decode ps => obtain ⟨-, -, rfl⟩ := exec_decode_next.mp h; exact hs
  | isRepeat ps => obtain ⟨-, -, rfl⟩ := exec_isRepeat_next.mp h; exact hs

/-! Every operation, and every run. -/

/-- With the unread values erased every operation ends the same way. -/
theorem exec_readView {s : State} (hs : s.PulseTimed) (i : Instr) :
    outcomeView (exec i (readView s)) = outcomeView (exec i s) := by
  cases i with
  | start modeOk =>
    exact whenEnabled_readView Iff.rfl (fun _ => congrArg Host.Outcome.next (startEffect_readView modeOk s))
  | adv dt => exact outcomeView_next_of_eq rfl
  | stop | eGuard lvl | eAcq | eRel | eUnguard | tAcq | tRel =>
    exact whenEnabled_readView Iff.rfl (fun _ => outcomeView_next_of_eq rfl)
  | tCheck => exact whenEnabled_readView Iff.rfl (fun _ => outcomeView_next_of_eq (checkEffect_readView s))
  | edge lvl =>
    refine whenEnabled_readView Iff.rfl (fun hcan => ?_)
    obtain ⟨⟨hrun, -⟩, -⟩ := hcan
    have hbody := edgeBody_readView (s := edgeAcquireEffect (guardEffect lvl s)) (hs (.inl hrun))
    exact outcomeView_andThen_congr (f := fun u => unguardEffect (edgeReleaseEffect u)) (fun _ => rfl) hbody
  | eBody =>
    refine whenEnabled_readView Iff.rfl (fun hcan => edgeBody_readView (hs (.inr ?_)))
    have hphase : s.edgePhase = .locked := hcan
    simp [hphase]
  | tick => exact execTick_readView s
  | tBody => exact whenEnabled_readView Iff.rfl (fun _ => tickBody_readView s)
  | decode ps | isRepeat ps => exact portCall_readView _ ps _ s

/-- States with one view run every list of operations to outcomes with one view. -/
theorem runInstrs_readView_congr {s t : State} (hs : s.PulseTimed) (ht : t.PulseTimed) (hview : readView s = readView t)
    (is : List Instr) : outcomeView (runInstrs is s) = outcomeView (runInstrs is t) := by
  induction is generalizing s t with
  | nil => exact congrArg Host.Outcome.next hview
  | cons i is ih =>
    have hstep : outcomeView (exec i s) = outcomeView (exec i t) := by
      rw [← exec_readView hs, hview, exec_readView ht]
    obtain ⟨u, v, hu, hv, huv⟩ | ⟨hsame, -⟩ := outcomeView_eq_cases hstep
    · rw [runInstrs_cons_of_next hu, runInstrs_cons_of_next hv]
      exact ih (exec_keeps_pulseTimed hs hu) (exec_keeps_pulseTimed ht hv) huv
    · rw [runInstrs, runInstrs, hsame]

/-- Settles O3: two power-on states have one view and an idle edge path, so their runs end alike (`runInstrs_readView_congr`). -/
theorem unspecifiedResetValuesAreNeverRead : Obligations.UnspecifiedResetValuesAreNeverRead := by
  intro p now line a b a' b' c c' d d' e e' f f' g g' is _
  have hrun := runInstrs_readView_congr (s := State.powerOn p now line a b c d e f g)
    (t := State.powerOn p now line a' b' c' d' e' f' g') (pulseTimed_of_reset rfl rfl) (pulseTimed_of_reset rfl rfl) rfl is
  obtain ⟨u, v, hu, hv, huv⟩ | ⟨hsame, hstop⟩ := outcomeView_eq_cases hrun
  · rw [hu, hv]
    exact sameButUnread_of_readView_eq huv
  · rw [← hsame]
    cases ho : runInstrs is (State.powerOn p now line a b c d e f g) with
    | next u => exact absurd ho (hstop u)
    | fault r => rfl
    | refused r => rfl

end Sys2Proof.Machine
end

section
/-! Every step keeps the invariant (spec/10_state.md R31, R49): at power-on it holds, and each effect keeps it where its condition
does. -/

namespace Sys2Proof.Machine

/-! Power-on. -/

theorem capacity_pos {p : Params} (hp : p.Legal) : 0 < capacity p := by
  obtain ⟨-, -, hcount, -⟩ := hp
  exact hcount

theorem bitcnt_toNat_le (n : Fin 33) : (BitVec.ofNat 6 n.val).toNat ≤ 32 := by
  rw [BitVec.toNat_ofNat]
  omega

/-- Settles O2: at power-on everything the invariant speaks of is idle, free, stopped or empty. -/
theorem powerOnMeetsTheInvariants : Obligations.PowerOnMeetsTheInvariants := by
  intro p now line a b c d e f g hp
  refine ⟨?inv, ⟨rfl, rfl, rfl, rfl⟩, trivial, rfl⟩
  case inv =>
    constructor
    case legal => exact hp
    case bufBound => exact capacity_pos hp
    case necCount => exact bitcnt_toNat_le e
    all_goals simp [State.powerOn]

/-! Steps that only sequence: line, guard, lock and phases. -/

/-- As an edge sequence, a tick sequence is in service only in `RUNNING`, or where `FAULT` has stopped it. -/
theorem State.Inv.running_of_tickPhase {s : State} (hs : s.Inv) (hfault : s.runState ≠ .fault) (hphase : s.tickPhase ≠ .idle) :
    s.runState = .running := by
  cases hr : s.runState with
  | reset => obtain ⟨-, hidle, -⟩ := hs.inReset hr; exact absurd hidle hphase
  | running => rfl
  | stopped => obtain ⟨-, hidle, -⟩ := hs.inStopped hr; exact absurd hidle hphase
  | fault => exact absurd hr hfault

/-- In `RUNNING` a step that only sequences keeps the invariant when it keeps what ties guard, lock and phases together (R49). -/
theorem State.Inv.sequenced {s : State} (hs : s.Inv) (hrun : s.runState = .running) {lvl guard : Bool} {lock : Lock}
    {edge : EdgePhase} {tick : TickPhase} (hlockEdge : lock = .edge ↔ (edge = .locked ∨ edge = .done))
    (hlockTick : lock = .tick ↔ (tick = .locked ∨ tick = .done)) (hguard : guard = true ↔ edge ≠ .idle) :
    State.Inv { s with line := lvl, guard := guard, lock := lock, edgePhase := edge, tickPhase := tick } :=
  { hs with
    lockEdge := hlockEdge
    lockTick := hlockTick
    guardSet := hguard
    inReset := fun hreset => absurd (hrun.symm.trans hreset) (by decide)
    inStopped := fun hstopped => absurd (hrun.symm.trans hstopped) (by decide) }

theorem guardEffect_inv {s : State} {lvl : Bool} (hs : s.Inv) (hcan : CanGuard s) : (guardEffect lvl s).Inv := by
  obtain ⟨hrun, -, hidle⟩ := hcan
  refine hs.sequenced hrun ?_ hs.lockTick (by simp)
  simpa [hidle] using hs.lockEdge

theorem edgeAcquireEffect_inv {s : State} (hs : s.Inv) (hfault : s.runState ≠ .fault) (hcan : CanEdgeAcquire s) :
    (edgeAcquireEffect s).Inv := by
  obtain ⟨hguarded, hfree⟩ := hcan
  refine hs.sequenced (hs.running_of_edgePhase hfault (by simp [hguarded])) (by simp) ?_ ?_
  · simpa [hfree] using hs.lockTick
  · simpa [hguarded] using hs.guardSet

theorem edgeReleaseEffect_inv {s : State} (hs : s.Inv) (hfault : s.runState ≠ .fault) (hcan : CanEdgeRelease s) :
    (edgeReleaseEffect s).Inv := by
  have hdone : s.edgePhase = .done := hcan
  have hlock : s.lock = .edge := hs.lockEdge.mpr (.inr hdone)
  refine hs.sequenced (hs.running_of_edgePhase hfault (by simp [hdone])) (by simp) ?_ ?_
  · simpa [hlock] using hs.lockTick
  · simpa [hdone] using hs.guardSet

theorem unguardEffect_inv {s : State} (hs : s.Inv) (hfault : s.runState ≠ .fault) (hcan : CanUnguard s) :
    (unguardEffect s).Inv := by
  have hreleased : s.edgePhase = .released := hcan
  refine hs.sequenced (hs.running_of_edgePhase hfault (by simp [hreleased])) ?_ hs.lockTick (by simp)
  simpa [hreleased] using hs.lockEdge

theorem checkEffect_inv {s : State} (hs : s.Inv) (hcan : CanCheck s) : (checkEffect s).Inv := by
  obtain ⟨hrun, -, hidle⟩ := hcan
  obtain ⟨-, hcheck⟩ | ⟨-, hcheck⟩ := checkEffect_cases s <;> rw [hcheck]
  · exact hs
  · refine hs.sequenced hrun hs.lockEdge ?_ hs.guardSet
    simpa [hidle] using hs.lockTick

theorem tickAcquireEffect_inv {s : State} (hs : s.Inv) (hfault : s.runState ≠ .fault) (hcan : CanTickAcquire s) :
    (tickAcquireEffect s).Inv := by
  obtain ⟨hwait, hfree⟩ := hcan
  refine hs.sequenced (hs.running_of_tickPhase hfault (by simp [hwait])) ?_ (by simp) hs.guardSet
  simpa [hfree] using hs.lockEdge

theorem tickReleaseEffect_inv {s : State} (hs : s.Inv) (hfault : s.runState ≠ .fault) (hcan : CanTickRelease s) :
    (tickReleaseEffect s).Inv := by
  have hdone : s.tickPhase = .done := hcan
  have hlock : s.lock = .tick := hs.lockTick.mpr (.inr hdone)
  refine hs.sequenced (hs.running_of_tickPhase hfault (by simp [hdone])) ?_ (by simp) hs.guardSet
  simpa [hlock] using hs.lockEdge

/-! Host, environment and consumer. -/

theorem raiseFault_inv {s : State} {c : FaultCode} (hs : s.Inv) (hc : c ≠ .none) : (raiseFault c s).Inv :=
  { hs with
    inReset := nofun
    inRunning := nofun
    inStopped := nofun
    inFault := ⟨fun _ => hc, fun _ => rfl⟩ }

theorem elapsed_startedClock (now : U64) : elapsed now (startedClock now) = 0#64 := sub_self now

theorem startAccepted_inv {s : State} (hs : s.Inv) (hreset : s.runState = .reset) :
    (startAccepted (emit (.lineSetMode true true) s)).Inv :=
  { hs with
    inReset := nofun
    inRunning := fun _ => ⟨rfl, rfl, rfl, rfl⟩
    inStopped := nofun
    inFault := ⟨nofun, fun hcode => absurd (hreset.symm.trans (hs.inFault.mpr hcode)) (by decide)⟩
    pclkTime := fun _ => elapsed_startedClock s.now
    iclkTime := fun _ => elapsed_startedClock s.now }

theorem startEffect_inv {s : State} {m : Bool} (hs : s.Inv) : (startEffect m s).Inv := by
  obtain ⟨-, heffect⟩ | ⟨hreset, -, heffect⟩ | ⟨-, -, heffect⟩ := startEffect_cases m s <;> rw [heffect]
  · exact raiseFault_inv hs (by decide)
  · exact startAccepted_inv hs hreset
  · have hcode : FaultCode.lineMode ≠ .none := by decide
    exact { raiseFault_inv hs hcode with inReset := nofun }

theorem stopEffect_inv {s : State} (hs : s.Inv) (hcan : CanStop s) : (stopEffect s).Inv := by
  obtain ⟨hrun, hedge, htick⟩ := hcan
  exact { hs with
    inReset := nofun
    inRunning := nofun
    inStopped := fun _ => ⟨hedge, htick, rfl, rfl⟩
    inFault := ⟨nofun, fun hcode => absurd (hrun.symm.trans (hs.inFault.mpr hcode)) (by decide)⟩ }

/-- A clock that shows its age shows it after an advance too (R161(a)). -/
theorem elapsed_add_eq_ofNat {now dt : U64} {c : Clock} {age : Nat} (h : elapsed now c = BitVec.ofNat 64 age) :
    elapsed (now + dt) c = BitVec.ofNat 64 (age + dt.toNat) := by
  rw [elapsed_add, h, BitVec.ofNat_add, BitVec.ofNat_toNat, BitVec.setWidth_eq]

theorem advance_inv {s : State} {dt : U64} (hs : s.Inv) : (advance dt s).Inv :=
  { hs with
    pclkTime := fun hclock => elapsed_add_eq_ofNat (hs.pclkTime hclock)
    iclkTime := fun hclock => elapsed_add_eq_ofNat (hs.iclkTime hclock) }

theorem finishCall_inv {s : State} {r : CallResult} (hs : s.Inv) : (finishCall r s).Inv :=
  { hs with
    necIdle := rfl
    necCount := bitcnt_toNat_le _ }

/-! The bodies. -/

theorem constructedPulse_range {s : State} (hp : s.params.Legal) (hacc : Accepted s.params (constructedPulse s).duration) :
    s.params.minElapsed ≤ (constructedPulse s).duration ∧ (constructedPulse s).duration < s.params.maxElapsed :=
  ⟨min_le_clamp hp _, hacc⟩

/-- The buffer an edge body leaves is below capacity, with every pulse in range (R31, R62). -/
theorem edgeBodyEffect_buf {s t : State} (hs : s.Inv) (h : edgeBodyEffect s = .next t) :
    t.count < capacity s.params ∧ ∀ p ∈ t.buf, s.params.minElapsed ≤ p.duration ∧ p.duration < s.params.maxElapsed := by
  obtain ⟨b, es, rfl, ⟨hacc, hroom, rfl, -⟩ | ⟨-, -, rfl, -⟩ | ⟨-, -, rfl, -⟩ | ⟨-, -, rfl, -⟩⟩ := edgeBodyEffect_inv h
  · have hcount : (s.buf ++ [constructedPulse s]).length = s.count + 1 := by simp [count_eq]
    refine ⟨hcount.trans_lt hroom, fun p hp => ?_⟩
    obtain hold | rfl := List.mem_append.mp hp |>.imp_right List.mem_singleton.mp
    · exact hs.bufRange p hold
    · exact constructedPulse_range hs.legal hacc
  · exact ⟨capacity_pos hs.legal, by simp [bodyState]⟩
  · exact ⟨hs.bufBound, hs.bufRange⟩
  · exact ⟨capacity_pos hs.legal, by simp [bodyState]⟩

theorem edgeBodyEffect_keeps_inv {s t : State} (hs : s.Inv) (hfault : s.runState ≠ .fault) (hphase : s.edgePhase = .locked)
    (h : edgeBodyEffect s = .next t) : t.Inv := by
  have hrun := hs.running_of_edgePhase hfault (by simp [hphase])
  obtain ⟨hbound, hrange⟩ := edgeBodyEffect_buf hs h
  obtain ⟨b, es, rfl⟩ := edgeBodyEffect_eq_bodyState h
  have hlock : s.lock = .edge := hs.lockEdge.mpr (.inl hphase)
  have hguard : s.guard = true := hs.guardSet.mpr (by simp [hphase])
  exact { hs with
    lockEdge := ⟨fun _ => .inr rfl, fun _ => hlock⟩
    guardSet := ⟨fun _ => by simp [bodyState], fun _ => hguard⟩
    inReset := fun hreset => absurd (hrun.symm.trans hreset) (by decide)
    inStopped := fun hstopped => absurd (hrun.symm.trans hstopped) (by decide)
    bufBound := hbound
    bufRange := hrange
    pclkTime := fun _ => elapsed_startedClock s.now
    iclkTime := fun _ => elapsed_startedClock s.now }

theorem tickBodyEffect_inv {s : State} (hs : s.Inv) (hfault : s.runState ≠ .fault) (hphase : s.tickPhase = .locked) :
    (tickBodyEffect s).Inv := by
  have hrun := hs.running_of_tickPhase hfault (by simp [hphase])
  have hlock : s.lock = .tick := hs.lockTick.mpr (.inl hphase)
  have hdone : State.Inv { s with tickPhase := .done } := by
    refine hs.sequenced hrun hs.lockEdge ?_ hs.guardSet
    simp [hlock]
  obtain ⟨-, hbody⟩ | ⟨-, hbody⟩ := tickBodyEffect_cases s <;> rw [hbody]
  · exact { hdone with
      inReset := fun hreset => absurd (hrun.symm.trans hreset) (by decide)
      bufBound := capacity_pos hs.legal
      bufRange := nofun
      iclkTime := nofun }
  · exact hdone

/-! Every operation. -/

/-- A micro-step, and every other operation that is no sequence of them, keeps the invariant. -/
theorem exec_single_keeps_inv {i : Instr} {s t : State} (hs : s.Inv) (hedge : ∀ l, i ≠ .edge l) (htick : i ≠ .tick)
    (h : exec i s = .next t) : t.Inv := by
  cases i with
  | edge lvl => exact absurd rfl (hedge lvl)
  | tick => exact absurd rfl htick
  | start modeOk => obtain ⟨-, rfl⟩ := exec_start_next.mp h; exact startEffect_inv hs
  | stop => obtain ⟨hcan, rfl⟩ := exec_stop_next.mp h; exact stopEffect_inv hs hcan
  | adv dt => obtain rfl := exec_adv_next.mp h; exact advance_inv hs
  | eGuard lvl => obtain ⟨hcan, rfl⟩ := exec_eGuard_next.mp h; exact guardEffect_inv hs hcan
  | eAcq => obtain ⟨hfault, hcan, rfl⟩ := exec_eAcq_next.mp h; exact edgeAcquireEffect_inv hs hfault hcan
  | eBody => obtain ⟨hfault, hphase, -, hbody⟩ := exec_eBody_next.mp h; exact edgeBodyEffect_keeps_inv hs hfault hphase hbody
  | eRel => obtain ⟨hfault, hcan, rfl⟩ := exec_eRel_next.mp h; exact edgeReleaseEffect_inv hs hfault hcan
  | eUnguard => obtain ⟨hfault, hcan, rfl⟩ := exec_eUnguard_next.mp h; exact unguardEffect_inv hs hfault hcan
  | tCheck => obtain ⟨hcan, rfl⟩ := exec_tCheck_next.mp h; exact checkEffect_inv hs hcan
  | tAcq => obtain ⟨hfault, hcan, rfl⟩ := exec_tAcq_next.mp h; exact tickAcquireEffect_inv hs hfault hcan
  | tBody => obtain ⟨hfault, hphase, -, rfl⟩ := exec_tBody_next.mp h; exact tickBodyEffect_inv hs hfault hphase
  | tRel => obtain ⟨hfault, hcan, rfl⟩ := exec_tRel_next.mp h; exact tickReleaseEffect_inv hs hfault hcan
  | decode ps => obtain ⟨-, -, rfl⟩ := exec_decode_next.mp h; exact finishCall_inv hs
  | isRepeat ps => obtain ⟨-, -, rfl⟩ := exec_isRepeat_next.mp h; exact finishCall_inv hs

/-- A run of operations of which none is `EDGE` or `TICK` keeps the invariant. -/
theorem run_single_keeps_inv {is : List Instr} {s t : State} (hs : s.Inv) (hsingle : ∀ i ∈ is, (∀ l, i ≠ .edge l) ∧ i ≠ .tick)
    (h : runInstrs is s = .next t) : t.Inv := by
  induction is generalizing s with
  | nil => cases h; exact hs
  | cons i is ih =>
    obtain ⟨u, hstep, hrest⟩ := runInstrs_cons_next.mp h
    obtain ⟨⟨hedge, htick⟩, hsingle'⟩ := List.forall_mem_cons.mp hsingle
    exact ih (exec_single_keeps_inv hs hedge htick hstep) hsingle' hrest

/-- `EDGE` and `TICK` keep it because they are runs of their micro-steps (R147, R149). -/
theorem exec_keeps_inv {i : Instr} {s t : State} (hs : s.Inv) (h : exec i s = .next t) : t.Inv := by
  cases i with
  | edge lvl =>
    obtain ⟨hcan, -⟩ := exec_edge_next.mp h
    rw [exec_edge_eq_microSteps lvl hcan] at h
    exact run_single_keeps_inv hs (by simp [Trace.edgeMicroSteps]) h
  | tick =>
    obtain ⟨hcan, ⟨-, rfl⟩ | ⟨hguard, hlock, -⟩⟩ := exec_tick_next.mp h
    · exact hs
    · rw [exec_tick_eq_microSteps hcan hguard hlock] at h
      exact run_single_keeps_inv hs (by simp [Trace.tickMicroSteps]) h
  | start modeOk | stop | adv dt | eGuard lvl | eAcq | eBody | eRel | eUnguard | tCheck | tAcq | tBody | tRel | decode ps
  | isRepeat ps => exact exec_single_keeps_inv hs (by simp) (by simp) h

/-- So every run keeps it. -/
theorem run_keeps_inv {is : List Instr} {s t : State} (hs : s.Inv) (h : runInstrs is s = .next t) : t.Inv := by
  induction is generalizing s with
  | nil => cases h; exact hs
  | cons i is ih =>
    obtain ⟨u, hstep, hrest⟩ := runInstrs_cons_next.mp h
    exact ih (exec_keeps_inv hs hstep) hrest

/-- Taking words from the port touches nothing the invariant speaks of. -/
theorem State.Inv.withPort {s : State} (hs : s.Inv) (rest : List PortWord) : State.Inv { s with port := rest } := { hs with }

/-- Settles O43: the step runs an operation on the state without its words, and every operation keeps the invariant
(`exec_keeps_inv`). -/
theorem everyStepKeepsTheInvariant : Obligations.EveryStepKeepsTheInvariant := by
  intro s t hs h
  obtain ⟨i, s', hfetch, hexec⟩ := step_eq_next.mp h
  obtain ⟨-, rest, -, rfl⟩ := fetch_eq_ok.mp hfetch
  exact exec_keeps_inv (hs.withPort rest) hexec

end Sys2Proof.Machine
end

section
/-! The output history (spec/20_memory.md section 4, spec/40_capture_engine.md R138 to R150): what a step reports is true of the
buffer it found, and leaves open what the buffer then holds. -/

namespace Sys2Proof.Machine

/-- The constants stand, and the events appended are true of the buffer before and leave the buffer after as the open train. -/
structure State.Reports (s t : State) : Prop where
  params : t.params = s.params
  events : ∃ es, t.out = s.out ++ es ∧ HistoryOk s.params s.buf es ∧ openTrain s.params s.buf es = t.buf

/-- A step that reports nothing and leaves the buffer. -/
theorem State.Reports.silent {s t : State} (hparams : t.params = s.params) (hout : t.out = s.out) (hbuf : t.buf = s.buf) :
    s.Reports t :=
  ⟨hparams, [], by simpa using hout, trivial, hbuf.symm⟩

/-! Single events. -/

theorem openTrain_gapEvents {s : State} (hgap : ¬ Accepted s.params (constructedPulse s).duration) (acc : List Pulse) :
    openTrain s.params acc (gapEvents s) = acc := by
  cases hg : s.params.reportGapPulse <;> simp [gapEvents, hg, openTrain, hgap]

theorem historyOk_gapEvents (s : State) (acc : List Pulse) : HistoryOk s.params acc (gapEvents s) := by
  cases hg : s.params.reportGapPulse <;> simp [gapEvents, hg, HistoryOk]

/-- An Overflow flush of a full buffer is true of it (R140, R146). -/
theorem historyOk_overflow {p : Params} {ps : List Pulse} (hp : p.Legal) (hfull : ps.length = capacity p) :
    HistoryOk p ps [.flush ps .overflow (trainDuration ps)] := by
  have hsome : ps ≠ [] := List.ne_nil_of_length_pos (hfull ▸ capacity_pos hp)
  exact ⟨rfl, hsome, rfl, ⟨fun _ => hfull, fun _ => rfl⟩, trivial⟩

/-- An Idle flush of a buffer that is neither empty nor full is true of it (R143, R146). -/
theorem historyOk_idle {p : Params} {ps : List Pulse} (hsome : ps ≠ []) (hroom : ps.length < capacity p) :
    HistoryOk p ps [.flush ps .idle (trainDuration ps)] :=
  ⟨rfl, hsome, rfl, ⟨nofun, fun hfull => absurd hfull (Nat.ne_of_lt hroom)⟩, trivial⟩

/-! The bodies. -/

theorem edgeBodyEffect_reports {s t : State} (hp : s.params.Legal) (hroom : HasRoom s) (h : edgeBodyEffect s = .next t) :
    s.Reports t := by
  have hpulse : Pulse.mk s.line (constructedPulse s).duration = constructedPulse s := rfl
  obtain ⟨b, es, rfl, ⟨hacc, -, rfl, rfl⟩ | ⟨hacc, hfull, rfl, rfl⟩ | ⟨hgap, -, rfl, rfl⟩ | ⟨-, hfull, -, -⟩⟩ := edgeBodyEffect_inv h
  · exact ⟨rfl, _, rfl, trivial, by simp [openTrain, hacc, hpulse, bodyState]⟩
  · refine ⟨rfl, _, rfl, ?_, rfl⟩
    have hlength : (s.buf ++ [constructedPulse s]).length = capacity s.params := by simpa [count_eq] using hfull
    simpa [HistoryOk, hacc, hpulse] using historyOk_overflow hp hlength
  · exact ⟨rfl, _, rfl, historyOk_gapEvents s s.buf, openTrain_gapEvents hgap s.buf⟩
  · exact absurd hfull (Nat.ne_of_lt hroom)

theorem tickBodyEffect_reports {s : State} (hroom : HasRoom s) : s.Reports (tickBodyEffect s) := by
  obtain ⟨⟨-, -, hcount⟩, hbody⟩ | ⟨-, hbody⟩ := tickBodyEffect_cases s <;> rw [hbody]
  · have hsome : s.buf ≠ [] := fun hempty => hcount (by simp [count_eq, hempty])
    exact ⟨rfl, _, rfl, historyOk_idle hsome hroom, rfl⟩
  · exact .silent rfl rfl rfl

/-! Every operation. -/

/-- The events of an accepted `START` (R131). -/
def startedEvents (p : Params) : List Event :=
  [.lineSetMode true true, .lineOnEdge true true, .schedArm 0#32 p.idleCheckIntervalMs]

theorem startAccepted_events (s : State) :
    (startAccepted (emit (.lineSetMode true true) s)).out = s.out ++ startedEvents s.params := by
  simp [startedEvents]

theorem startEffect_reports (m : Bool) (s : State) : s.Reports (startEffect m s) := by
  obtain ⟨-, heffect⟩ | ⟨-, -, heffect⟩ | ⟨-, -, heffect⟩ := startEffect_cases m s <;> rw [heffect]
  · exact ⟨rfl, [_], rfl, trivial, rfl⟩
  · exact ⟨rfl, startedEvents s.params, startAccepted_events s, trivial, rfl⟩
  · exact ⟨rfl, [.lineSetMode true true, .fault .lineMode], by simp, trivial, rfl⟩

/-- With room in the buffer every operation that answers reports what is true. -/
theorem exec_reports {i : Instr} {s t : State} (hp : s.params.Legal) (hroom : HasRoom s) (h : exec i s = .next t) :
    s.Reports t := by
  cases i with
  | start modeOk => obtain ⟨-, rfl⟩ := exec_start_next.mp h; exact startEffect_reports modeOk s
  | stop => obtain ⟨-, rfl⟩ := exec_stop_next.mp h; exact ⟨rfl, [.lineOffEdge, .schedStop], by simp, trivial, rfl⟩
  | edge lvl =>
    obtain ⟨-, -, u, hu, rfl⟩ := exec_edge_next.mp h
    obtain ⟨hparams, hevents⟩ := edgeBodyEffect_reports (s := edgeAcquireEffect (guardEffect lvl s)) hp hroom hu
    exact ⟨hparams, hevents⟩
  | eBody => obtain ⟨-, -, -, hbody⟩ := exec_eBody_next.mp h; exact edgeBodyEffect_reports hp hroom hbody
  | tick =>
    obtain ⟨-, ⟨-, rfl⟩ | ⟨-, -, -, rfl⟩⟩ := exec_tick_next.mp h
    · exact .silent rfl rfl rfl
    · obtain ⟨hparams, hevents⟩ := tickBodyEffect_reports (s := tickAcquireEffect { s with tickPhase := .wait }) hroom
      exact ⟨hparams, hevents⟩
  | tBody => obtain ⟨-, -, -, rfl⟩ := exec_tBody_next.mp h; exact tickBodyEffect_reports hroom
  | tCheck =>
    obtain ⟨-, rfl⟩ := exec_tCheck_next.mp h
    obtain ⟨-, hcheck⟩ | ⟨-, hcheck⟩ := checkEffect_cases s <;> rw [hcheck] <;> exact .silent rfl rfl rfl
  | adv dt => obtain rfl := exec_adv_next.mp h; exact .silent rfl rfl rfl
  | eGuard lvl => obtain ⟨-, rfl⟩ := exec_eGuard_next.mp h; exact .silent rfl rfl rfl
  | eAcq => obtain ⟨-, -, rfl⟩ := exec_eAcq_next.mp h; exact .silent rfl rfl rfl
  | eRel => obtain ⟨-, -, rfl⟩ := exec_eRel_next.mp h; exact .silent rfl rfl rfl
  | eUnguard => obtain ⟨-, -, rfl⟩ := exec_eUnguard_next.mp h; exact .silent rfl rfl rfl
  | tAcq => obtain ⟨-, -, rfl⟩ := exec_tAcq_next.mp h; exact .silent rfl rfl rfl
  | tRel => obtain ⟨-, -, rfl⟩ := exec_tRel_next.mp h; exact .silent rfl rfl rfl
  | decode ps => obtain ⟨-, -, rfl⟩ := exec_decode_next.mp h; exact .silent rfl rfl rfl
  | isRepeat ps => obtain ⟨-, -, rfl⟩ := exec_isRepeat_next.mp h; exact .silent rfl rfl rfl

/-- Settles O44: what a step appends is true of the buffer, which is what the history before it leaves open (`exec_reports`). -/
theorem everyStepKeepsTheHistoryTrue : Obligations.EveryStepKeepsTheHistoryTrue := by
  intro s t hs hhistory hopen h
  obtain ⟨i, s', hfetch, hexec⟩ := step_eq_next.mp h
  obtain ⟨-, rest, -, rfl⟩ := fetch_eq_ok.mp hfetch
  obtain ⟨hparams, es, hout, htrue, hleft⟩ := exec_reports (s := { s with port := rest }) hs.legal hs.bufBound hexec
  rw [hparams, hout, historyOk_append, openTrain_append]
  exact ⟨⟨hhistory, hopen ▸ htrue⟩, hopen ▸ hleft⟩

end Sys2Proof.Machine
end

section
/-! What each operation moves and what it leaves (spec/10_state.md sections 6 and 8, spec/60_exceptions.md sections 3 and 4), and what
exists outside `RUNNING` (spec/40_capture_engine.md section 6). -/

namespace Sys2Proof.Machine

/-! What only grows, and what stands. -/

/-- Events and results are only appended; constants and port stand. -/
structure State.Extends (s t : State) : Prop where
  out     : ∃ es, t.out = s.out ++ es
  results : ∃ rs, t.results = s.results ++ rs
  params  : t.params = s.params
  port    : t.port = s.port

/-- A step that appends nothing. -/
theorem State.Extends.of_silent {s t : State} (hout : t.out = s.out) (hresults : t.results = s.results)
    (hparams : t.params = s.params) (hport : t.port = s.port) : s.Extends t :=
  ⟨⟨[], by simpa using hout⟩, ⟨[], by simpa using hresults⟩, hparams, hport⟩

/-- A step that appends events only. -/
theorem State.Extends.of_events {s t : State} {es : List Event} (hout : t.out = s.out ++ es) (hresults : t.results = s.results)
    (hparams : t.params = s.params) (hport : t.port = s.port) : s.Extends t :=
  ⟨⟨es, hout⟩, ⟨[], by simpa using hresults⟩, hparams, hport⟩

theorem edgeBodyEffect_extends {s t : State} (h : edgeBodyEffect s = .next t) : s.Extends t := by
  obtain ⟨b, es, rfl⟩ := edgeBodyEffect_eq_bodyState h
  exact .of_events rfl rfl rfl rfl

theorem tickBodyEffect_extends (s : State) : s.Extends (tickBodyEffect s) := by
  obtain ⟨b, es, c, hbody⟩ := tickBodyEffect_frame s
  rw [hbody]
  exact .of_events rfl rfl rfl rfl

theorem startEffect_extends (m : Bool) (s : State) : s.Extends (startEffect m s) := by
  obtain ⟨-, heffect⟩ | ⟨-, -, heffect⟩ | ⟨-, -, heffect⟩ := startEffect_cases m s <;> rw [heffect]
  · exact .of_events rfl rfl rfl rfl
  · exact .of_events (startAccepted_events s) rfl rfl rfl
  · exact .of_events (es := [.lineSetMode true true, .fault .lineMode]) (by simp) rfl rfl rfl

theorem exec_extends {i : Instr} {s t : State} (h : exec i s = .next t) : s.Extends t := by
  cases i with
  | start modeOk => obtain ⟨-, rfl⟩ := exec_start_next.mp h; exact startEffect_extends modeOk s
  | stop =>
    obtain ⟨-, rfl⟩ := exec_stop_next.mp h
    exact .of_events (es := [.lineOffEdge, .schedStop]) (by simp) rfl rfl rfl
  | edge lvl =>
    obtain ⟨-, -, u, hu, rfl⟩ := exec_edge_next.mp h
    obtain ⟨hout, hresults, hparams, hport⟩ := edgeBodyEffect_extends hu
    exact ⟨hout, hresults, hparams, hport⟩
  | eBody => obtain ⟨-, -, -, hbody⟩ := exec_eBody_next.mp h; exact edgeBodyEffect_extends hbody
  | tick =>
    obtain ⟨-, ⟨-, rfl⟩ | ⟨-, -, -, rfl⟩⟩ := exec_tick_next.mp h
    · exact .of_silent rfl rfl rfl rfl
    · obtain ⟨hout, hresults, hparams, hport⟩ := tickBodyEffect_extends (tickAcquireEffect { s with tickPhase := .wait })
      exact ⟨hout, hresults, hparams, hport⟩
  | tBody => obtain ⟨-, -, -, rfl⟩ := exec_tBody_next.mp h; exact tickBodyEffect_extends s
  | tCheck =>
    obtain ⟨-, rfl⟩ := exec_tCheck_next.mp h
    obtain ⟨-, hcheck⟩ | ⟨-, hcheck⟩ := checkEffect_cases s <;> rw [hcheck] <;> exact .of_silent rfl rfl rfl rfl
  | adv dt => obtain rfl := exec_adv_next.mp h; exact .of_silent rfl rfl rfl rfl
  | eGuard lvl => obtain ⟨-, rfl⟩ := exec_eGuard_next.mp h; exact .of_silent rfl rfl rfl rfl
  | eAcq => obtain ⟨-, -, rfl⟩ := exec_eAcq_next.mp h; exact .of_silent rfl rfl rfl rfl
  | eRel => obtain ⟨-, -, rfl⟩ := exec_eRel_next.mp h; exact .of_silent rfl rfl rfl rfl
  | eUnguard => obtain ⟨-, -, rfl⟩ := exec_eUnguard_next.mp h; exact .of_silent rfl rfl rfl rfl
  | tAcq => obtain ⟨-, -, rfl⟩ := exec_tAcq_next.mp h; exact .of_silent rfl rfl rfl rfl
  | tRel => obtain ⟨-, -, rfl⟩ := exec_tRel_next.mp h; exact .of_silent rfl rfl rfl rfl
  | decode ps => obtain ⟨-, -, rfl⟩ := exec_decode_next.mp h; exact ⟨⟨[], by simp⟩, ⟨[_], rfl⟩, rfl, rfl⟩
  | isRepeat ps => obtain ⟨-, -, rfl⟩ := exec_isRepeat_next.mp h; exact ⟨⟨[], by simp⟩, ⟨[_], rfl⟩, rfl, rfl⟩

/-- Settles O45: every operation extends the state it runs on (`exec_extends`). -/
theorem historyOnlyGrowsAndConstantsStand : Obligations.HistoryOnlyGrowsAndConstantsStand := by
  intro i s t h
  obtain ⟨hout, hresults, hparams, hport⟩ := exec_extends h
  exact ⟨hout, hresults, hparams, hport⟩

/-! The agents. -/

/-- Settles O46: each operation's next state in closed form shows which fields it writes, and its agents are in the table of R103. -/
theorem stateMovesOnlyByItsAgents : Obligations.StateMovesOnlyByItsAgents := by
  intro i s t h
  cases i with
  | start modeOk =>
    obtain ⟨-, rfl⟩ := exec_start_next.mp h
    obtain ⟨-, heffect⟩ | ⟨-, -, heffect⟩ | ⟨-, -, heffect⟩ := startEffect_cases modeOk s <;> simp [heffect, Instr.agents]
  | stop => obtain ⟨-, rfl⟩ := exec_stop_next.mp h; simp [Instr.agents]
  | adv dt => obtain rfl := exec_adv_next.mp h; simp [Instr.agents]
  | edge lvl =>
    obtain ⟨-, -, u, hu, rfl⟩ := exec_edge_next.mp h
    obtain ⟨b, es, rfl⟩ := edgeBodyEffect_eq_bodyState hu
    simp [Instr.agents, bodyState]
  | eBody =>
    obtain ⟨-, -, -, hbody⟩ := exec_eBody_next.mp h
    obtain ⟨b, es, rfl⟩ := edgeBodyEffect_eq_bodyState hbody
    simp [Instr.agents, bodyState]
  | eGuard lvl => obtain ⟨-, rfl⟩ := exec_eGuard_next.mp h; simp [Instr.agents]
  | eAcq => obtain ⟨-, -, rfl⟩ := exec_eAcq_next.mp h; simp [Instr.agents]
  | eRel => obtain ⟨-, -, rfl⟩ := exec_eRel_next.mp h; simp [Instr.agents]
  | eUnguard => obtain ⟨-, -, rfl⟩ := exec_eUnguard_next.mp h; simp [Instr.agents]
  | tick =>
    obtain ⟨-, ⟨-, rfl⟩ | ⟨-, -, -, rfl⟩⟩ := exec_tick_next.mp h
    · simp [Instr.agents]
    · obtain ⟨b, es, c, hbody⟩ := tickBodyEffect_frame (tickAcquireEffect { s with tickPhase := .wait })
      simp [Instr.agents, hbody]
  | tCheck =>
    obtain ⟨-, rfl⟩ := exec_tCheck_next.mp h
    obtain ⟨-, hcheck⟩ | ⟨-, hcheck⟩ := checkEffect_cases s <;> simp [hcheck, Instr.agents]
  | tAcq => obtain ⟨-, -, rfl⟩ := exec_tAcq_next.mp h; simp [Instr.agents]
  | tBody =>
    obtain ⟨-, -, -, rfl⟩ := exec_tBody_next.mp h
    obtain ⟨b, es, c, hbody⟩ := tickBodyEffect_frame s
    simp [Instr.agents, hbody]
  | tRel => obtain ⟨-, -, rfl⟩ := exec_tRel_next.mp h; simp [Instr.agents]
  | decode ps => obtain ⟨-, -, rfl⟩ := exec_decode_next.mp h; simp [Instr.agents]
  | isRepeat ps => obtain ⟨-, -, rfl⟩ := exec_isRepeat_next.mp h; simp [Instr.agents]

/-! Outside `RUNNING`. -/

/-- Settles O19: every other operation asks for `RUNNING`, or for a sequence in service, which under the invariant there is only in
`RUNNING` or, stopped, in `FAULT`. -/
theorem operationsOutsideRunning : Obligations.OperationsOutsideRunning := by
  intro i s t hs hrun h
  cases i with
  | adv dt => exact .inl ⟨dt, rfl⟩
  | decode ps => obtain ⟨hfault, -⟩ := exec_decode_next.mp h; exact .inr (.inl ⟨hfault, .inl ⟨ps, rfl⟩⟩)
  | isRepeat ps => obtain ⟨hfault, -⟩ := exec_isRepeat_next.mp h; exact .inr (.inl ⟨hfault, .inr ⟨ps, rfl⟩⟩)
  | start modeOk =>
    obtain ⟨hfault, rfl⟩ := exec_start_next.mp h
    refine .inr (.inr ⟨modeOk, rfl, ?_⟩)
    cases hr : s.runState with
    | reset => exact .inl rfl
    | running => exact absurd hr hrun
    | stopped => exact .inr ⟨rfl, by rw [startEffect_again (by simp [hr])]; rfl⟩
    | fault => exact absurd hr hfault
  | stop | eGuard lvl | edge lvl | tCheck | tick =>
    obtain ⟨-, hcan, -⟩ := whenEnabled_eq_next.mp h
    simp [CanStop, CanEdge, CanGuard, CanCheck, hrun] at hcan
  | eAcq | eBody | eRel | eUnguard =>
    obtain ⟨hfault, hcan, -⟩ := whenEnabled_eq_next.mp h
    have hphase : s.edgePhase ≠ .idle := by
      intro hidle
      simp [CanEdgeAcquire, CanEdgeBody, CanEdgeRelease, CanUnguard, hidle] at hcan
    exact absurd (hs.running_of_edgePhase hfault hphase) hrun
  | tAcq | tBody | tRel =>
    obtain ⟨hfault, hcan, -⟩ := whenEnabled_eq_next.mp h
    have hphase : s.tickPhase ≠ .idle := by
      intro hidle
      simp [CanTickAcquire, CanTickBody, CanTickRelease, hidle] at hcan
    exact absurd (hs.running_of_tickPhase hfault hphase) hrun

end Sys2Proof.Machine
end

section
/-! `EDGE` and `TICK` from between sequences (spec/40_capture_engine.md section 4, spec/60_exceptions.md section 2). -/

namespace Sys2Proof.Machine

/-! Where they are enabled. -/

/-- Running, with no edge sequence in service and the lock free. -/
structure State.EdgeReady (s : State) : Prop where
  inv      : s.Inv
  running  : s.runState = .running
  edgeIdle : s.edgePhase = .idle
  lockFree : s.lock = .free

theorem State.EdgeReady.guardOff {s : State} (hs : s.EdgeReady) : s.guard = false := hs.inv.guard_eq_false_iff.mpr hs.edgeIdle

theorem State.EdgeReady.canEdge {s : State} (hs : s.EdgeReady) : CanEdge s := by
  obtain ⟨-, -, hreg, -⟩ := hs.inv.inRunning hs.running
  exact ⟨⟨hs.running, hreg, hs.edgeIdle⟩, hs.lockFree⟩

/-- Running, with no sequence in service at all. -/
structure State.Ready (s : State) : Prop where
  inv       : s.Inv
  running   : s.runState = .running
  quiescent : s.Quiescent

theorem State.Ready.edgeReady {s : State} (hs : s.Ready) : s.EdgeReady :=
  ⟨hs.inv, hs.running, hs.quiescent.edgeIdle, hs.quiescent.lockFree⟩

theorem State.Ready.canCheck {s : State} (hs : s.Ready) : CanCheck s := by
  obtain ⟨-, -, -, harmed⟩ := hs.inv.inRunning hs.running
  exact ⟨hs.running, harmed, hs.quiescent.tickIdle⟩

/-! `EDGE`. -/

/-- What `EDGE` leaves, for the buffer and the events of its body: guard, lock and phase end as they began (R147). -/
def edgeState (s : State) (lvl : Bool) (b : List Pulse) (es : List Event) : State :=
  { s with
    line := lvl, iclk := startedClock s.now, pclk := startedClock s.now, pclkAge := 0, iclkAge := 0
    schedIntervalMs := s.params.idleCheckIntervalMs
    buf := b, out := s.out ++ .schedRearm s.params.idleCheckIntervalMs :: es }

/-- The pulse that `EDGE` constructs (R24, R137). -/
def edgePulse (s : State) (lvl : Bool) : Pulse := ⟨lvl, clamp s.params (elapsed s.now s.pclk)⟩

section
variable {s : State} {lvl : Bool} (hs : s.EdgeReady) (hread : PulseClockReadable s)
include hs hread

/-- Where the body answers, `EDGE` leaves `edgeState`. -/
theorem State.EdgeReady.exec_edge_of_body {b : List Pulse} {es : List Event}
    (hbody : edgeBodyEffect (edgeAcquireEffect (guardEffect lvl s)) =
      .next (bodyState (edgeAcquireEffect (guardEffect lvl s)) b es)) :
    exec (.edge lvl) s = .next (edgeState s lvl b es) := by
  obtain ⟨hclock, -⟩ := hs.inv.inRunning hs.running
  refine exec_edge_next.mpr ⟨hs.canEdge, hread, _, hbody, ?_⟩
  simp [edgeState, bodyState, unguardEffect, edgeReleaseEffect, edgeAcquireEffect, guardEffect, startedClock, hclock, hs.edgeIdle,
    hs.lockFree, hs.guardOff]

theorem State.EdgeReady.exec_edge_append (hacc : Accepted s.params (edgePulse s lvl).duration)
    (hroom : s.count + 1 ≠ capacity s.params) :
    exec (.edge lvl) s =
      .next (edgeState s lvl (s.buf ++ [edgePulse s lvl]) [.pulse lvl (edgePulse s lvl).duration]) :=
  hs.exec_edge_of_body hread (edgeBodyEffect_append (s := edgeAcquireEffect (guardEffect lvl s)) hacc hs.inv.bufBound hroom)

theorem State.EdgeReady.exec_edge_overflow (hacc : Accepted s.params (edgePulse s lvl).duration)
    (hfull : s.count + 1 = capacity s.params) :
    exec (.edge lvl) s = .next (edgeState s lvl [] [.pulse lvl (edgePulse s lvl).duration,
      .flush (s.buf ++ [edgePulse s lvl]) .overflow (trainDuration (s.buf ++ [edgePulse s lvl]))]) :=
  hs.exec_edge_of_body hread (edgeBodyEffect_overflow (s := edgeAcquireEffect (guardEffect lvl s)) hacc hs.inv.bufBound hfull)

theorem State.EdgeReady.exec_edge_gap (hgap : ¬ Accepted s.params (edgePulse s lvl).duration) :
    exec (.edge lvl) s = .next (edgeState s lvl s.buf
      (if s.params.reportGapPulse then [.pulse lvl s.params.maxElapsed] else [])) := by
  have hmax : (edgePulse s lvl).duration = s.params.maxElapsed :=
    constructedPulse_duration_of_gap (s := edgeAcquireEffect (guardEffect lvl s)) hs.inv.legal hgap
  rw [← hmax]
  exact hs.exec_edge_of_body hread
    (edgeBodyEffect_gap (s := edgeAcquireEffect (guardEffect lvl s)) hgap (Nat.ne_of_lt hs.inv.bufBound))

/-- Where the pulse clock can be read `EDGE` completes. -/
theorem State.EdgeReady.exec_edge_completes : ∃ b es, exec (.edge lvl) s = .next (edgeState s lvl b es) := by
  by_cases hacc : Accepted s.params (edgePulse s lvl).duration
  · by_cases hfull : s.count + 1 = capacity s.params
    · exact ⟨_, _, hs.exec_edge_overflow hread hacc hfull⟩
    · exact ⟨_, _, hs.exec_edge_append hread hacc hfull⟩
  · exact ⟨_, _, hs.exec_edge_gap hread hacc⟩

end

/-- Settles O29: the append, the overflow and the gap are the three closed forms of `EDGE`. -/
theorem edgeMacroCompletes : Obligations.EdgeMacroCompletes := by
  intro s lvl hs hrun hphase hlock hread d p iv
  have hready : s.EdgeReady := ⟨hs, hrun, hphase, hlock⟩
  by_cases hacc : Accepted s.params (edgePulse s lvl).duration
  · have hlt : d < s.params.maxElapsed := hacc
    by_cases hfull : s.count + 1 = capacity s.params
    · rw [hready.exec_edge_overflow hread hacc hfull]
      simp only [if_pos hlt, if_pos hfull, List.append_assoc]
      rfl
    · rw [hready.exec_edge_append hread hacc hfull]
      simp only [if_pos hlt, if_neg hfull, List.append_assoc]
      rfl
  · have hge : ¬ d < s.params.maxElapsed := hacc
    rw [hready.exec_edge_gap hread hacc]
    simp only [if_neg hge, List.append_assoc]
    rfl

/-- Between sequences `EDGE` leaves the machine there. -/
theorem State.Ready.edge_ready {s : State} {lvl : Bool} {b : List Pulse} {es : List Event} (hs : s.Ready)
    (h : exec (.edge lvl) s = .next (edgeState s lvl b es)) : (edgeState s lvl b es).Ready :=
  ⟨exec_keeps_inv hs.inv h, hs.running, { hs.quiescent with }⟩

/-! `TICK` and `ADV`. -/

/-- What a tick that flushes leaves: the idle clock stopped, and lock and phase as they began (R143, R149). -/
def idleFlushed (s : State) : State := { flush .idle s with iclk := stoppedClock s.iclk }

/-- Between sequences a tick flushes if the flush is due, and does nothing otherwise (R149). -/
theorem State.Ready.exec_tick {s : State} (hs : s.Ready) (hread : IdleClockReadable s) :
    exec .tick s = .next (if IdleFlushDue s then idleFlushed s else s) := by
  obtain ⟨-, htick, hlock, hguard⟩ := hs.quiescent
  exact exec_tick_next.mpr ⟨hs.canCheck, .inr ⟨hguard, hlock, hread, (tick_service_eq htick hlock).symm⟩⟩

theorem State.Ready.advance_ready {s : State} (hs : s.Ready) (dt : U64) : (advance dt s).Ready :=
  ⟨advance_inv hs.inv, hs.running, { hs.quiescent with }⟩

theorem startAccepted_ready {s : State} (hs : s.Inv) (hreset : s.runState = .reset) :
    (startAccepted (emit (.lineSetMode true true) s)).Ready := by
  obtain ⟨hedge, htick, -⟩ := hs.inReset hreset
  exact ⟨startAccepted_inv hs hreset, rfl, hedge, htick, hs.lock_free_of_idle hedge htick, hs.guard_eq_false_iff.mpr hedge⟩

/-! Runs without micro-steps. -/

theorem edge_quiescent {lvl : Bool} {s t : State} (hs : s.Quiescent) (h : exec (.edge lvl) s = .next t) : t.Quiescent := by
  obtain ⟨-, -, u, hu, rfl⟩ := exec_edge_next.mp h
  obtain ⟨b, es, rfl⟩ := edgeBodyEffect_eq_bodyState hu
  exact ⟨rfl, hs.tickIdle, rfl, rfl⟩

theorem tick_quiescent {s t : State} (hs : s.Quiescent) (h : exec .tick s = .next t) : t.Quiescent := by
  obtain ⟨-, ⟨-, rfl⟩ | ⟨-, -, -, rfl⟩⟩ := exec_tick_next.mp h
  · exact hs
  · obtain ⟨b, es, c, hbody⟩ := tickBodyEffect_frame (tickAcquireEffect { s with tickPhase := .wait })
    rw [hbody]
    exact ⟨hs.edgeIdle, rfl, rfl, hs.guardOff⟩

theorem startEffect_quiescent {s : State} (hs : s.Quiescent) (m : Bool) : (startEffect m s).Quiescent := by
  obtain ⟨-, heffect⟩ | ⟨-, -, heffect⟩ | ⟨-, -, heffect⟩ := startEffect_cases m s <;> rw [heffect] <;> exact { hs with }

/-- An operation that is no micro-step leaves no sequence in service (R246(ii)). -/
theorem exec_keeps_quiescent {i : Instr} {s t : State} (hs : s.Quiescent) (hi : i.isMicroStep = false) (h : exec i s = .next t) :
    t.Quiescent := by
  cases i with
  | start modeOk => obtain ⟨-, rfl⟩ := exec_start_next.mp h; exact startEffect_quiescent hs modeOk
  | stop => obtain ⟨-, rfl⟩ := exec_stop_next.mp h; exact { hs with }
  | adv dt => obtain rfl := exec_adv_next.mp h; exact { hs with }
  | edge lvl => exact edge_quiescent hs h
  | tick => exact tick_quiescent hs h
  | decode ps => obtain ⟨-, -, rfl⟩ := exec_decode_next.mp h; exact { hs with }
  | isRepeat ps => obtain ⟨-, -, rfl⟩ := exec_isRepeat_next.mp h; exact { hs with }
  | eGuard _ | eAcq | eBody | eRel | eUnguard | tCheck | tAcq | tBody | tRel => cases hi

theorem run_keeps_quiescent {is : List Instr} {s t : State} (hs : s.Quiescent) (his : ∀ i ∈ is, i.isMicroStep = false)
    (h : runInstrs is s = .next t) : t.Quiescent := by
  induction is generalizing s with
  | nil => cases h; exact hs
  | cons i is ih =>
    obtain ⟨u, hstep, hrest⟩ := runInstrs_cons_next.mp h
    obtain ⟨hi, his'⟩ := List.forall_mem_cons.mp his
    exact ih (exec_keeps_quiescent hs hi hstep) his' hrest

/-- Settles O49: such a run ends with no sequence in service (`run_keeps_quiescent`), and from there `EDGE` and the whole `TICK`
complete. -/
theorem macroRunsNeverContend : Obligations.MacroRunsNeverContend := by
  intro is s t hs hq his h
  have hend := run_keeps_quiescent hq his h
  refine ⟨hend, fun hrun => ?_⟩
  have hready : t.Ready := ⟨run_keeps_inv hs h, hrun, hend⟩
  refine ⟨fun hread lvl => ?edge, fun hread => ⟨_, hready.exec_tick hread, ?tick⟩⟩
  case edge =>
    obtain ⟨b, es, hedge⟩ := hready.edgeReady.exec_edge_completes (lvl := lvl) hread
    exact ⟨_, hedge⟩
  case tick =>
    rw [← exec_tick_eq_microSteps hready.canCheck hend.guardOff hend.lockFree]
    exact hready.exec_tick hread

end Sys2Proof.Machine
end

section
/-! What runs of edges, ticks and silence make of the buffer (spec/40_capture_engine.md section 7). -/

namespace Sys2Proof.Machine

/-! The append condition. -/

/-- Settles O32: the clamped value is the raw one brought within the bounds (`clamp_toNat`). -/
theorem appendConditionOnTheRawValue : Obligations.AppendConditionOnTheRawValue := by
  intro p e hp
  have hbounds : p.minElapsed.toNat ≤ p.maxElapsed.toNat := min_le_max_of_legal hp
  rw [BitVec.lt_def, BitVec.lt_def, BitVec.lt_def, clamp_toNat hp]
  omega

/-! One pulse after a restart of the pulse clock. -/

/-- Between sequences, at an instant in which the pulse clock has just restarted. -/
structure State.JustRestarted (s : State) : Prop where
  ready : s.Ready
  start : s.pclk.start = s.now
  age   : s.pclkAge = 0

theorem State.JustRestarted.edgePulse_advance {s : State} (hs : s.JustRestarted) (dt : U64) (lvl : Bool) :
    edgePulse (advance dt s) lvl = ⟨lvl, clamp s.params dt⟩ := by
  have helapsed : elapsed (s.now + dt) s.pclk = dt := by rw [elapsed, hs.start]; exact add_sub_cancel_left s.now dt
  exact congrArg (fun e => Pulse.mk lvl (clamp s.params e)) helapsed

theorem State.JustRestarted.readable_advance {s : State} (hs : s.JustRestarted) (dt : U64) : PulseClockReadable (advance dt s) := by
  have hage : (advance dt s).pclkAge = dt.toNat := by simp [advance, hs.age]
  rw [PulseClockReadable, hage]
  exact dt.isLt

/-- The operations of one pulse complete at another such instant. -/
theorem State.JustRestarted.run_pulse {s t : State} {dt : U64} {lvl : Bool} {b : List Pulse} {es : List Event}
    (hs : s.JustRestarted) (h : exec (.edge lvl) (advance dt s) = .next t) (ht : t = edgeState (advance dt s) lvl b es) :
    runInstrs (Trace.pulseOps lvl dt) s = .next t ∧ t.JustRestarted := by
  subst ht
  refine ⟨?_, (hs.ready.advance_ready dt).edge_ready h, rfl, rfl⟩
  rw [Trace.pulseOps, runInstrs_cons_of_next (exec_adv_next.mpr rfl), runInstrs_cons_of_next h, runInstrs_nil]

section
variable {s : State} {dt : U64} {lvl : Bool} (hs : s.JustRestarted)
include hs

/-- Whether the pulse is accepted depends on the clamped silence alone. -/
theorem State.JustRestarted.accepted_iff :
    Accepted (advance dt s).params (edgePulse (advance dt s) lvl).duration ↔ Accepted s.params (clamp s.params dt) := by
  rw [hs.edgePulse_advance dt lvl]
  exact Iff.rfl

/-- An accepted pulse that leaves room is appended, and there is no flush. -/
theorem State.JustRestarted.run_pulse_append (hacc : Accepted s.params (clamp s.params dt))
    (hroom : s.count + 1 ≠ capacity s.params) :
    ∃ t, runInstrs (Trace.pulseOps lvl dt) s = .next t ∧ t.JustRestarted ∧ t.params = s.params ∧
      t.buf = s.buf ++ [⟨lvl, clamp s.params dt⟩] ∧ flushesOf t.out = flushesOf s.out := by
  have hpulse := hs.edgePulse_advance dt lvl
  have hacc' := hs.accepted_iff (lvl := lvl).mpr hacc
  have hedge := (hs.ready.advance_ready dt).edgeReady.exec_edge_append (hs.readable_advance dt) hacc' hroom
  obtain ⟨hrun, ht⟩ := hs.run_pulse hedge rfl
  refine ⟨_, hrun, ht, rfl, ?_, ?_⟩
  · rw [hpulse]; rfl
  · simp [edgeState, flushesOf_append, flushesOf]

/-- An accepted pulse that fills the buffer is flushed with all before it. -/
theorem State.JustRestarted.run_pulse_overflow (hacc : Accepted s.params (clamp s.params dt))
    (hfull : s.count + 1 = capacity s.params) :
    ∃ t, runInstrs (Trace.pulseOps lvl dt) s = .next t ∧ t.buf = [] ∧
      flushesOf t.out = flushesOf s.out ++ [.flush (s.buf ++ [⟨lvl, clamp s.params dt⟩]) .overflow
        (trainDuration (s.buf ++ [⟨lvl, clamp s.params dt⟩]))] := by
  have hpulse := hs.edgePulse_advance dt lvl
  have hacc' := hs.accepted_iff (lvl := lvl).mpr hacc
  have hedge := (hs.ready.advance_ready dt).edgeReady.exec_edge_overflow (hs.readable_advance dt) hacc' hfull
  obtain ⟨hrun, -⟩ := hs.run_pulse hedge rfl
  refine ⟨_, hrun, rfl, ?_⟩
  rw [hpulse]
  simp [edgeState, flushesOf_append, flushesOf]

/-- A pulse that is not accepted leaves buffer and flushes. -/
theorem State.JustRestarted.run_pulse_gap (hgap : ¬ Accepted s.params (clamp s.params dt)) :
    ∃ t, runInstrs (Trace.pulseOps lvl dt) s = .next t ∧ t.buf = s.buf ∧ flushesOf t.out = flushesOf s.out := by
  have hgap' := mt (hs.accepted_iff (lvl := lvl)).mp hgap
  have hedge := (hs.ready.advance_ready dt).edgeReady.exec_edge_gap (hs.readable_advance dt) hgap'
  obtain ⟨hrun, -⟩ := hs.run_pulse hedge rfl
  refine ⟨_, hrun, rfl, ?_⟩
  cases hreport : s.params.reportGapPulse <;> simp [edgeState, flushesOf_append, flushesOf, hreport]

end

/-! A train of accepted pulses. -/

/-- The operations of a train of levels and silences. -/
def trainOps (train : List (Bool × U64)) : List Instr := train.flatMap (fun x => Trace.pulseOps x.1 x.2)

/-- The pulses it makes where every silence is measured. -/
def trainPulses (p : Params) (train : List (Bool × U64)) : List Pulse := train.map (fun x => Pulse.mk x.1 (clamp p x.2))

theorem runInstrs_append_of_next {as bs : List Instr} {s t : State} (h : runInstrs as s = .next t) :
    runInstrs (as ++ bs) s = runInstrs bs t := by
  rw [runInstrs_append, h, andThen_next]

/-- By induction on the train, with any buffer that leaves room for it to begin with. -/
theorem State.JustRestarted.run_train (train : List (Bool × U64)) {s : State} (hs : s.JustRestarted)
    (hacc : ∀ x ∈ train, x.2 < s.params.maxElapsed) (hbounds : s.params.minElapsed < s.params.maxElapsed)
    (hfit : s.count + train.length ≤ capacity s.params) :
    ∃ t, runInstrs (trainOps train) s = .next t ∧
      (s.count + train.length < capacity s.params →
        t.buf = s.buf ++ trainPulses s.params train ∧ flushesOf t.out = flushesOf s.out) ∧
      (s.count + train.length = capacity s.params →
        t.buf = [] ∧ flushesOf t.out = flushesOf s.out ++ [.flush (s.buf ++ trainPulses s.params train) .overflow
          (trainDuration (s.buf ++ trainPulses s.params train))]) := by
  induction train generalizing s with
  | nil =>
    refine ⟨s, rfl, fun _ => by simp [trainPulses], fun hfull => ?_⟩
    exact absurd hfull (Nat.ne_of_lt hs.ready.inv.bufBound)
  | cons x xs ih =>
    obtain ⟨lvl, dt⟩ := x
    obtain ⟨hdt, hacc'⟩ := List.forall_mem_cons.mp hacc
    have hclamp : Accepted s.params (clamp s.params dt) :=
      (appendConditionOnTheRawValue s.params dt hs.ready.inv.legal).mpr ⟨hdt, hbounds⟩
    rw [List.length_cons] at hfit ⊢
    by_cases hfull : s.count + 1 = capacity s.params
    · have hlast : xs = [] := List.eq_nil_of_length_eq_zero (by omega)
      subst hlast
      obtain ⟨t, hrun, hbuf, hflush⟩ := hs.run_pulse_overflow (lvl := lvl) hclamp hfull
      refine ⟨t, ?_, fun hlt => absurd hlt (by simp; omega), fun _ => ⟨hbuf, hflush⟩⟩
      simpa [trainOps] using hrun
    · obtain ⟨u, hrun, hu, hparams, hbuf, hflush⟩ := hs.run_pulse_append (lvl := lvl) hclamp hfull
      have hcount : u.count = s.count + 1 := by simp [count_eq, hbuf]
      have hcapacity : capacity u.params = capacity s.params := by rw [hparams]
      obtain ⟨t, hrest, hbelow, hat⟩ := ih hu (by rwa [hparams]) (by rwa [hparams]) (by omega)
      have hpulses : u.buf ++ trainPulses u.params xs = s.buf ++ trainPulses s.params ((lvl, dt) :: xs) := by
        simp [hbuf, hparams, trainPulses]
      rw [hpulses, hflush] at hbelow hat
      refine ⟨t, ?_, fun hlt => hbelow (by omega), fun heq => hat (by omega)⟩
      rw [trainOps, List.flatMap_cons, runInstrs_append_of_next hrun]
      exact hrest

/-- Settles O41: `run_train` from an empty buffer. -/
theorem overflowFlushesExactlyAtCapacity : Obligations.OverflowFlushesExactlyAtCapacity := by
  intro s train hs hq hrun hempty hstart hage hacc hbounds hfit pulses
  have hcount : s.count = 0 := by simp [count_eq, hempty]
  have hrestarted : s.JustRestarted := ⟨⟨hs, hrun, hq⟩, hstart, hage⟩
  have htrain := hrestarted.run_train train hacc hbounds (by omega)
  rw [hempty, hcount, Nat.zero_add, List.nil_append] at htrain
  exact htrain

/-! The first edge. -/

theorem trainDuration_singleton (p : Pulse) : trainDuration [p] = p.duration.toNat := by simp [trainDuration]

theorem startAccepted_justRestarted {s : State} (hs : s.Inv) (hreset : s.runState = .reset) :
    (startAccepted (emit (.lineSetMode true true) s)).JustRestarted := ⟨startAccepted_ready hs hreset, rfl, rfl⟩

/-- Settles O30: `START` restarts the pulse clock, so the first edge measures the advance, and the clamped silence decides. -/
theorem firstEdgeMeasuresFromStart : Obligations.FirstEdgeMeasuresFromStart := by
  intro s dt lvl hs hreset
  obtain ⟨-, -, hbuf, hout⟩ := hs.inReset hreset
  let s1 := startAccepted (emit (.lineSetMode true true) s)
  have hs1 : s1.JustRestarted := startAccepted_justRestarted hs hreset
  have hbuf1 : s1.buf = [] := hbuf
  have hflush1 : flushesOf s1.out = [] := by simp [s1, hout, flushesOf]
  have hcount1 : s1.count = 0 := by simp [count_eq, hbuf1]
  have hiff : Accepted s.params (clamp s.params dt) ↔ dt < s.params.maxElapsed ∧ s.params.minElapsed < s.params.maxElapsed :=
    appendConditionOnTheRawValue s.params dt hs.legal
  rw [runInstrs_cons_of_next (exec_start_accepted hreset)]
  by_cases hacc : Accepted s.params (clamp s.params dt)
  · obtain ⟨hdt, hbounds⟩ := hiff.mp hacc
    by_cases hfull : s1.count + 1 = capacity s1.params
    · obtain ⟨t, hrun, hbuf2, hflush2⟩ := hs1.run_pulse_overflow (lvl := lvl) hacc hfull
      rw [hbuf1, hflush1, List.nil_append, List.nil_append, trainDuration_singleton] at hflush2
      have hone : capacity s.params = 1 := by rw [hcount1] at hfull; exact hfull.symm
      exact ⟨t, hrun, fun hmax => absurd hdt (BitVec.not_lt.mpr hmax), fun _ _ hmore => absurd hone (Nat.ne_of_gt hmore),
        fun _ _ _ => ⟨hbuf2, hflush2⟩⟩
    · obtain ⟨t, hrun, -, -, hbuf2, hflush2⟩ := hs1.run_pulse_append (lvl := lvl) hacc hfull
      rw [hbuf1, List.nil_append] at hbuf2
      have hmore : capacity s.params ≠ 1 := by rw [hcount1] at hfull; exact Ne.symm hfull
      exact ⟨t, hrun, fun hmax => absurd hdt (BitVec.not_lt.mpr hmax), fun _ _ _ => ⟨hbuf2, hflush2.trans hflush1⟩,
        fun _ _ hone => absurd hone hmore⟩
  · obtain ⟨t, hrun, hbuf2, hflush2⟩ := hs1.run_pulse_gap (lvl := lvl) hacc
    exact ⟨t, hrun, fun _ => ⟨hbuf2.trans hbuf1, hflush2.trans hflush1⟩,
      fun hdt hbounds => absurd (hiff.mpr ⟨hdt, hbounds⟩) hacc, fun hdt hbounds => absurd (hiff.mpr ⟨hdt, hbounds⟩) hacc⟩

/-! Silence. -/

/-- Between sequences with nothing buffered and the idle clock stopped: only an edge could start a train again. -/
structure State.Silent (s : State) : Prop where
  ready    : s.Ready
  empty    : s.buf = []
  iclkStop : s.iclk.running = false

/-- Ticks and advances leave it there and report nothing. -/
theorem State.Silent.exec_keeps {i : Instr} {s : State} (hs : s.Silent) (hi : i = .tick ∨ ∃ x, i = .adv x) :
    ∃ t, exec i s = .next t ∧ t.Silent ∧ t.out = s.out := by
  obtain rfl | ⟨x, rfl⟩ := hi
  · have hdue : ¬ IdleFlushDue s := fun ⟨hclock, _⟩ => by simp [hs.iclkStop] at hclock
    refine ⟨s, ?_, hs, rfl⟩
    rw [hs.ready.exec_tick (.inl hs.iclkStop), if_neg hdue]
  · exact ⟨advance x s, rfl, ⟨hs.ready.advance_ready x, hs.empty, hs.iclkStop⟩, rfl⟩

theorem State.Silent.run_keeps {is : List Instr} {s : State} (hs : s.Silent) (his : ∀ i ∈ is, i = .tick ∨ ∃ x, i = .adv x) :
    ∃ t, runInstrs is s = .next t ∧ t.Silent ∧ t.out = s.out := by
  induction is generalizing s with
  | nil => exact ⟨s, rfl, hs, rfl⟩
  | cons i is ih =>
    obtain ⟨hi, his'⟩ := List.forall_mem_cons.mp his
    obtain ⟨u, hstep, hu, hout⟩ := hs.exec_keeps hi
    obtain ⟨t, hrest, ht, hout'⟩ := ih hu his'
    exact ⟨t, (runInstrs_cons_of_next hstep is).trans hrest, ht, hout'.trans hout⟩

/-- Settles O42: the tick flushes the whole buffer and stops the idle clock, and from there nothing but an edge reports
(`Silent.run_keeps`). -/
theorem idleFlushHappensExactlyOnce : Obligations.IdleFlushHappensExactlyOnce := by
  intro s dt later hs hq hrun hsome hclock hgap hage hlater
  have hready : (advance dt s).Ready := State.Ready.advance_ready ⟨hs, hrun, hq⟩ dt
  have hdue : IdleFlushDue (advance dt s) := ⟨hclock, hgap, by simpa [count_eq] using hsome⟩
  have htick := hready.exec_tick (.inr hage)
  rw [if_pos hdue] at htick
  let t := idleFlushed (advance dt s)
  have ht : t.Silent := ⟨⟨exec_keeps_inv hready.inv htick, hrun, { hq with }⟩, rfl, rfl⟩
  obtain ⟨u, hrest, hu, hout⟩ := ht.run_keeps hlater
  refine ⟨t, u, ?_, rfl, rfl, hrest, hout, hu.empty⟩
  rw [Trace.idleOps, runInstrs_cons_of_next (exec_adv_next.mpr rfl), runInstrs_cons_of_next htick, runInstrs_nil]

end Sys2Proof.Machine
end

section
/-! The clocks, the lock and the environment (spec/40_capture_engine.md section 7, spec/70_reset_and_hazards.md sections 2 and 3,
spec/20_memory.md section 4). -/

namespace Sys2Proof.Machine

/-! Measured time. -/

/-- The exact sum of a list of advances, in microseconds. -/
def totalMicros (dts : List U64) : Nat := (dts.map (fun dt => dt.toNat)).sum

/-- Advances add up: the timebase modulo `2^64`, the ages exactly. -/
theorem run_advances (dts : List U64) (s : State) :
    runInstrs (dts.map .adv) s = .next { s with
      now := s.now + BitVec.ofNat 64 (totalMicros dts), pclkAge := s.pclkAge + totalMicros dts
      iclkAge := s.iclkAge + totalMicros dts } := by
  induction dts generalizing s with
  | nil => simp [totalMicros]
  | cons dt dts ih =>
    have htotal : totalMicros (dt :: dts) = dt.toNat + totalMicros dts := by simp [totalMicros]
    rw [List.map_cons, runInstrs_cons_of_next (exec_adv_next.mpr rfl), ih, htotal, BitVec.ofNat_add, BitVec.ofNat_toNat,
      BitVec.setWidth_eq]
    simp only [advance, BitVec.add_assoc, Nat.add_assoc]

theorem elapsed_after_advances {c : Clock} {now : U64} (h : c.start = now) (n : Nat) :
    (elapsed (now + BitVec.ofNat 64 n) c).toNat = n % 2 ^ 64 := by
  rw [elapsed, h, add_sub_cancel_left, BitVec.toNat_ofNat]

/-- A clock that shows its age modulo `2^64` shows it exactly while it has not overrun (R299). -/
theorem elapsed_toNat_eq_age {c : Clock} {now : U64} {age : Nat} (htime : elapsed now c = BitVec.ofNat 64 age)
    (hread : age < 2 ^ 64) : (elapsed now c).toNat = age := by
  rw [htime, BitVec.toNat_ofNat, Nat.mod_eq_of_lt hread]

/-- Settles O39: an edge body restarts both clocks at `now`, from where the advances add up (`run_advances`), and the invariant ties
what a running clock shows to its age. -/
theorem measuredTimeIsExact : Obligations.MeasuredTimeIsExact := by
  refine ⟨fun s t dts h => ?restarted, fun s t hs h => ?pulseClock, fun s t hs hclock h => ?idleClock⟩
  case restarted =>
    obtain ⟨-, -, -, hbody⟩ := exec_eBody_next.mp h
    obtain ⟨b, es, rfl⟩ := edgeBodyEffect_eq_bodyState hbody
    exact ⟨_, run_advances dts _, elapsed_after_advances rfl _, elapsed_after_advances rfl _, Nat.zero_add _, Nat.zero_add _⟩
  case pulseClock =>
    obtain ⟨hfault, hphase, hread, -⟩ := exec_eBody_next.mp h
    have hlocked : s.edgePhase = .locked := hphase
    obtain ⟨hclock, -⟩ := hs.inRunning (hs.running_of_edgePhase hfault (by simp [hlocked]))
    exact elapsed_toNat_eq_age (hs.pclkTime hclock) hread
  case idleClock =>
    obtain ⟨-, -, hread, -⟩ := exec_tBody_next.mp h
    exact elapsed_toNat_eq_age (hs.iclkTime hclock) (hread.resolve_left (by simp [hclock]))

/-! The holder of the lock. -/

/-- Settles O47: the phase of the holder is the one of its body or of its release, and the lock has one holder (R49). -/
theorem lockHolderCanAlwaysMove : Obligations.LockHolderCanAlwaysMove := by
  intro s hs hrun
  have hfault : s.runState ≠ .fault := by simp [hrun]
  refine ⟨fun hlock hread => ?edge, fun hlock hread => ?tick, ?both⟩
  case edge =>
    obtain hlocked | hdone := hs.lockEdge.mp hlock
    · obtain ⟨t, ht⟩ := edgeBodyEffect_completes hs.bufBound
      exact .inl ⟨t, exec_eBody_next.mpr ⟨hfault, hlocked, hread, ht⟩⟩
    · exact .inr ⟨_, exec_eRel_next.mpr ⟨hfault, hdone, rfl⟩⟩
  case tick =>
    obtain hlocked | hdone := hs.lockTick.mp hlock
    · exact .inl ⟨_, exec_tBody_next.mpr ⟨hfault, hlocked, hread, rfl⟩⟩
    · exact .inr ⟨_, exec_tRel_next.mpr ⟨hfault, hdone, rfl⟩⟩
  case both =>
    rintro ⟨⟨t, ht⟩, u, hu⟩
    obtain ⟨-, hedge, -⟩ := exec_eBody_next.mp ht
    obtain ⟨-, htick, -⟩ := exec_tBody_next.mp hu
    have hholder : Lock.edge = .tick := (hs.lockEdge.mpr (.inl hedge)).symm.trans (hs.lockTick.mpr (.inl htick))
    cases hholder

/-! What the environment never does. -/

theorem noStep_of_pulseClock_overrun {s : State} (hage : 2 ^ 64 - 1 < s.pclkAge) (lvl : Bool) :
    NoStep (exec .eBody s) ∧ NoStep (exec (.edge lvl) s) := by
  have hread : ¬ PulseClockReadable s := Nat.not_lt.mpr hage
  refine ⟨fun t h => ?_, fun t h => ?_⟩
  · obtain ⟨-, -, hpclk, -⟩ := exec_eBody_next.mp h
    exact hread hpclk
  · obtain ⟨-, hpclk, -⟩ := exec_edge_next.mp h
    exact hread hpclk

theorem noStep_of_idleClock_overrun {s : State} (hclock : s.iclk.running = true) (hage : 2 ^ 64 - 1 < s.iclkAge) :
    NoStep (exec .tBody s) ∧ (s.guard = false → NoStep (exec .tick s)) := by
  have hread : ¬ IdleClockReadable s := not_or.mpr ⟨by simp [hclock], Nat.not_lt.mpr hage⟩
  refine ⟨fun t h => ?_, fun hguard t h => ?_⟩
  · obtain ⟨-, -, hiclk, -⟩ := exec_tBody_next.mp h
    exact hread hiclk
  · obtain ⟨-, ⟨hset, -⟩ | ⟨-, -, hiclk, -⟩⟩ := exec_tick_next.mp h
    · simp [hguard] at hset
    · exact hread hiclk

theorem noStep_of_longList {s : State} {ps : List Pulse} (hlen : 255 < ps.length) :
    NoStep (exec (.decode ps) s) ∧ NoStep (exec (.isRepeat ps) s) := by
  refine ⟨fun t h => ?_, fun t h => ?_⟩
  · obtain ⟨-, hfits, -⟩ := exec_decode_next.mp h
    exact absurd hlen (Nat.not_lt.mpr hfits)
  · obtain ⟨-, hfits, -⟩ := exec_isRepeat_next.mp h
    exact absurd hlen (Nat.not_lt.mpr hfits)

/-- Settles O40: each assumption on the environment (R290) is a condition of the operation it would break. -/
theorem environmentViolationsHaveNoStep : Obligations.EnvironmentViolationsHaveNoStep := by
  refine ⟨fun s lvl hphase => ?edgeTwice, fun s hphase => ?tickTwice, fun s lvl hrun => ?notRunning,
    fun i s t h => (exec_extends h).params, fun s lvl hage => noStep_of_pulseClock_overrun hage lvl,
    fun s hclock hage => noStep_of_idleClock_overrun hclock hage, fun s ps hlen => noStep_of_longList hlen⟩
  case edgeTwice =>
    have hguard : ¬ CanGuard s := fun ⟨_, _, hidle⟩ => hphase hidle
    exact ⟨noStep_of_disabled hguard, noStep_of_disabled fun ⟨hcan, _⟩ => hguard hcan⟩
  case tickTwice =>
    have hcheck : ¬ CanCheck s := fun ⟨_, _, hidle⟩ => hphase hidle
    exact ⟨noStep_of_disabled hcheck, noStep_of_disabled hcheck⟩
  case notRunning =>
    obtain ⟨hguard, hedge, hcheck, htick⟩ := noStep_sequence_of_not_running hrun
    exact ⟨hguard lvl, hedge lvl, hcheck, htick⟩

end Sys2Proof.Machine
end

section
/-! The reference arbitration and scheduler (spec/60_exceptions.md R246, R266; spec/70_reset_and_hazards.md R298). -/

namespace Sys2Proof.Machine

/-! When the next tick is due. -/

/-- Half-range comparison against a due time `n` microseconds ahead (log 18). -/
theorem half_range_iff {dt n : U64} (hdt : dt.toNat < 2 ^ 63) (hn : n.toNat ≤ 2 ^ 63) :
    (dt - n).toNat < 2 ^ 63 ↔ n.toNat ≤ dt.toNat := by
  rw [BitVec.toNat_sub]
  omega

/-- Settles O51: a rearm that resets the phase puts the due time 32000 microseconds ahead; one that does not leaves it. -/
theorem rearmDecidesWhenTheNextTickIsDue : Obligations.RearmDecidesWhenTheNextTickIsDue := by
  refine ⟨fun r now dt harmed hdt => ?reset, fun r now now' iv => rfl⟩
  case reset =>
    have hmicros : microsOfMillis 32#32 = 32000#64 := by decide
    have hahead : now + dt - (now + 32000#64) = dt - 32000#64 := add_sub_add_left_eq_sub dt 32000#64 now
    simp only [RefScheduler.observe, RefScheduler.rearm, RefScheduler.due, if_true, harmed, hmicros, hahead, Bool.true_and,
      decide_eq_true_iff]
    exact half_range_iff hdt (by decide)

/-! An edge and a tick in one instant. -/

/-- The events of `EDGE`: pulses, a flush, and the rearm of the scheduler (R150, R151). -/
theorem exec_edge_events {lvl : Bool} {s t : State} (h : exec (.edge lvl) s = .next t) :
    ∃ es, t.out = s.out ++ es ∧
      ∀ e ∈ es, (∃ l d, e = .pulse l d) ∨ (∃ ps c n, e = .flush ps c n) ∨ ∃ iv, e = .schedRearm iv := by
  obtain ⟨-, -, u, hu, rfl⟩ := exec_edge_next.mp h
  obtain ⟨b, es, rfl, hcase⟩ := edgeBodyEffect_inv hu
  have hgap : ∀ e ∈ gapEvents (edgeAcquireEffect (guardEffect lvl s)), ∃ l d, e = .pulse l d := by
    unfold gapEvents
    split <;> simp
  refine ⟨_, rfl, ?_⟩
  obtain ⟨-, -, -, rfl⟩ | ⟨-, -, -, rfl⟩ | ⟨-, -, -, rfl⟩ | ⟨-, -, -, rfl⟩ := hcase
  · simp
  · simp
  · exact List.forall_mem_cons.mpr ⟨by simp, fun e he => .inl (hgap e he)⟩
  · refine List.forall_mem_cons.mpr ⟨by simp, fun e he => ?_⟩
    obtain hpulse | hflush := List.mem_append.mp he
    · exact .inl (hgap e hpulse)
    · exact .inr (.inl ⟨_, _, _, List.mem_singleton.mp hflush⟩)

/-- The platform runs an operation that the block answers. -/
theorem RefPlatform.run_of_next {i : Instr} {p : RefPlatform} {t : State} (resetsPhase : Bool) (h : exec i p.block = .next t) :
    p.run resetsPhase i = some
      { block := t
        sched := (if i = .tick then p.sched.serve else p.sched).observeAll resetsPhase t.now (t.out.drop p.block.out.length) } := by
  rw [RefPlatform.run, h]

/-- With an edge pending the arbiter runs it, on the scheduler that has raised its tick, and a raised tick stays raised. -/
theorem RefPlatform.step_edge {p : RefPlatform} {lvl : Bool} {dt : U64} {t : State} (resetsPhase : Bool)
    (hraised : (p.sched.raise p.block.now).raised = true) (h : exec (.edge lvl) p.block = .next t) :
    ∃ q : RefPlatform, RefPlatform.step resetsPhase (some lvl) dt p = some q ∧ q.block = t ∧ q.sched.raised = true := by
  obtain ⟨es, hout, hes⟩ := exec_edge_events h
  refine ⟨_, RefPlatform.run_of_next (p := { p with sched := p.sched.raise p.block.now }) resetsPhase h, rfl, ?_⟩
  rw [hout, List.drop_left, RefScheduler.observeAll_raised resetsPhase t.now _ hes, if_neg (by simp [arbiterChoice])]
  exact hraised

/-- With no edge pending and a tick raised the arbiter runs the tick. -/
theorem RefPlatform.step_tick {p : RefPlatform} {dt : U64} {t : State} (resetsPhase : Bool) (hraised : p.sched.raised = true)
    (h : exec .tick p.block = .next t) : ∃ q : RefPlatform, RefPlatform.step resetsPhase none dt p = some q ∧ q.block = t := by
  let p' : RefPlatform := { p with sched := p.sched.raise p.block.now }
  have hchoice : arbiterChoice none p'.sched.raised dt = .tick := by
    have hraised' : p'.sched.raised = true := by
      rw [RefScheduler.raise_raised, hraised, Bool.or_true]
    rw [hraised']
    rfl
  have hrun : RefPlatform.step resetsPhase none dt p = p'.run resetsPhase .tick :=
    congrArg (fun i => RefPlatform.run resetsPhase i p') hchoice
  exact ⟨_, hrun.trans (RefPlatform.run_of_next (p := p') resetsPhase h), rfl⟩

/-- Settles O50: the tick is raised before the edge and stays so through its rearm, and the edge leaves the idle clock young enough
for the tick to read. -/
theorem arbiterServesTheEdgeThenTheTick : Obligations.ArbiterServesTheEdgeThenTheTick := by
  intro resetsPhase p lvl dt dt' hs hq hrun hread hdue
  have hready : p.block.Ready := ⟨hs, hrun, hq⟩
  have hraised : (p.sched.raise p.block.now).raised = true := by
    rw [RefScheduler.raise_raised, Bool.or_eq_true]
    exact hdue
  obtain ⟨b, es, hedge⟩ := hready.edgeReady.exec_edge_completes (lvl := lvl) hread
  have hafter := hready.edge_ready hedge
  have htick := hafter.exec_tick (.inr (by simp [edgeState]))
  obtain ⟨q, hstep, hblock, hraised'⟩ := RefPlatform.step_edge (dt := dt) resetsPhase hraised hedge
  rw [← hblock] at hedge hafter htick
  obtain ⟨r, hstep', hblock'⟩ := RefPlatform.step_tick (dt := dt') resetsPhase hraised' htick
  refine ⟨q, r, hstep, hedge, by rw [hblock]; rfl, hstep', hafter.quiescent.guardOff, ?_⟩
  rw [hblock']
  exact htick

end Sys2Proof.Machine
end

section
/-! Decoder calls beside the engine (spec/41_nec_decoder.md sections 1 to 3, spec/60_exceptions.md section 4), and the port. -/

namespace Sys2Proof.Machine

/-! The port. -/

/-- Settles O4: `fetch` takes exactly the words of the operation that decodes. -/
theorem stepRunsTheDecodedOperation : Obligations.StepRunsTheDecodedOperation := by
  intro s i rest hl hdecode
  have hfetch : fetch s = .ok (i, { s with port := rest }) := fetch_eq_ok.mpr ⟨hl, rest, hdecode, rfl⟩
  rw [step, hfetch]

/-! The calls. -/

/-- An operation that, outside `FAULT`, finishes a call with the result `r` and does nothing else. -/
structure IsCall (c : Instr) (r : Params → CallResult) : Prop where
  exec_eq : ∀ {s : State}, s.runState ≠ .fault → exec c s = .next (finishCall (r s.params) s)
  ne_adv  : ∀ dt, c ≠ .adv dt

theorem isCall_decode {ps : List Pulse} (hlen : ps.length ≤ 255) :
    IsCall (.decode ps) (fun p => .decoded (Nec.decodeTrain p.bitOrder ps)) :=
  ⟨fun hfault => exec_decode_next.mpr ⟨hfault, hlen, rfl⟩, nofun⟩

theorem isCall_isRepeat {ps : List Pulse} (hlen : ps.length ≤ 255) :
    IsCall (.isRepeat ps) (fun _ => .isRepeat (Nec.isRepeatCode ps)) :=
  ⟨fun hfault => exec_isRepeat_next.mpr ⟨hfault, hlen, rfl⟩, nofun⟩

/-- Settles O60: the calls up to 255 pulses (`IsCall`), the stop of `FAULT`, and the refusal of a longer list. -/
theorem decoderCallsWriteOnlyTheirResult : Obligations.DecoderCallsWriteOnlyTheirResult :=
  ⟨fun _ _ hfault hlen => ⟨_, (isCall_decode hlen).exec_eq hfault, rfl⟩,
    fun _ _ hfault hlen => ⟨_, (isCall_isRepeat hlen).exec_eq hfault, rfl⟩,
    fun _ _ hfault => ⟨noStep_inFault hfault nofun, noStep_inFault hfault nofun⟩,
    fun _ _ hlen => noStep_of_longList hlen⟩

/-! A finished call and any other operation. -/

/-- An outcome with a call finished on the state it answers. -/
def finishAfter (r : CallResult) (o : Result) : Result := andThen o (fun t => .next (finishCall r t))

section
variable {r : CallResult}

/-- A guarded step commutes with a finished call where its condition does not see the call and its effect commutes. -/
theorem whenEnabled_finishCall {m : String} {can can' : Prop} [Decidable can] [Decidable can'] {s : State} {e e' : Result}
    (hcan : can' ↔ can) (heff : can → e' = finishAfter r e) :
    whenEnabled m can' (finishCall r s) e' = finishAfter r (whenEnabled m can s e) := by
  by_cases hr : s.runState = .fault
  · rw [whenEnabled_inFault hr, whenEnabled_inFault (show (finishCall r s).runState = .fault from hr)]
    rfl
  have hr' : (finishCall r s).runState ≠ .fault := hr
  by_cases hc : can
  · rw [whenEnabled_enabled hr hc, whenEnabled_enabled hr' (hcan.mpr hc), heff hc]
  · rw [whenEnabled_disabled hr hc, whenEnabled_disabled hr' (mt hcan.mp hc)]
    rfl

/-- What follows an outcome commutes with a finished call where both of its parts do. -/
theorem andThen_finishAfter {o : Result} {f : State → State} (hf : ∀ u, f (finishCall r u) = finishCall r (f u)) :
    andThen (finishAfter r o) (fun u => .next (f u)) = finishAfter r (andThen o (fun u => .next (f u))) := by
  cases o with
  | next u => exact congrArg Host.Outcome.next (hf u)
  | fault _ | refused _ => rfl

theorem startEffect_finishCall (m : Bool) (s : State) : startEffect m (finishCall r s) = finishCall r (startEffect m s) := by
  by_cases hr : s.runState = .reset
  · have hr' : (finishCall r s).runState = .reset := hr
    cases m
    · rw [startEffect_lineRefused hr, startEffect_lineRefused hr']; rfl
    · rw [startEffect_accepted hr, startEffect_accepted hr']; rfl
  · have hr' : (finishCall r s).runState ≠ .reset := hr
    rw [startEffect_again hr, startEffect_again hr']; rfl

/-- An edge body reads nothing a call writes. -/
theorem edgeBodyEffect_finishCall (s : State) : edgeBodyEffect (finishCall r s) = finishAfter r (edgeBodyEffect s) := by
  by_cases ha : Accepted s.params (constructedPulse s).duration
  · by_cases hr : HasRoom s
    · by_cases hc : s.count + 1 = capacity s.params
      · rw [edgeBodyEffect_overflow ha hr hc]; exact edgeBodyEffect_overflow ha hr hc
      · rw [edgeBodyEffect_append ha hr hc]; exact edgeBodyEffect_append ha hr hc
    · rw [edgeBodyEffect_undefined ha hr]; exact edgeBodyEffect_undefined ha hr
  · by_cases hc : s.count = capacity s.params
    · rw [edgeBodyEffect_gap_full ha hc]; exact edgeBodyEffect_gap_full ha hc
    · rw [edgeBodyEffect_gap ha hc]; exact edgeBodyEffect_gap ha hc

theorem edgeBody_finishCall (s : State) : edgeBody (finishCall r s) = finishAfter r (edgeBody s) := by
  by_cases hread : PulseClockReadable s
  · have hread' : PulseClockReadable (finishCall r s) := hread
    rw [edgeBody_readable hread, edgeBody_readable hread', edgeBodyEffect_finishCall]
  · have hread' : ¬ PulseClockReadable (finishCall r s) := hread
    rw [edgeBody_overrun hread, edgeBody_overrun hread']
    rfl

theorem tickBody_finishCall (s : State) : tickBody (finishCall r s) = finishAfter r (tickBody s) := by
  by_cases hread : IdleClockReadable s
  · have hread' : IdleClockReadable (finishCall r s) := hread
    rw [tickBody_readable hread, tickBody_readable hread']
    refine congrArg Host.Outcome.next ?_
    by_cases hdue : IdleFlushDue s
    · have hdue' : IdleFlushDue (finishCall r s) := hdue
      rw [tickBodyEffect_due hdue, tickBodyEffect_due hdue']; rfl
    · have hdue' : ¬ IdleFlushDue (finishCall r s) := hdue
      rw [tickBodyEffect_notDue hdue, tickBodyEffect_notDue hdue']; rfl
  · have hread' : ¬ IdleClockReadable (finishCall r s) := hread
    rw [tickBody_overrun hread, tickBody_overrun hread']
    rfl

theorem checkEffect_finishCall (s : State) : checkEffect (finishCall r s) = finishCall r (checkEffect s) := by
  have hguard : (finishCall r s).guard = s.guard := rfl
  cases hg : s.guard <;> rw [checkEffect, checkEffect, hguard, hg] <;> rfl

theorem execTick_finishCall (s : State) : execTick (finishCall r s) = finishAfter r (execTick s) := by
  refine whenEnabled_finishCall Iff.rfl (fun _ => ?_)
  rw [checkEffect_finishCall]
  by_cases hguard : s.guard = true
  · rw [if_pos hguard, if_pos (show (finishCall r s).guard = true from hguard)]
    rfl
  · rw [if_neg hguard, if_neg (show ¬ (finishCall r s).guard = true from hguard)]
    refine whenEnabled_finishCall Iff.rfl (fun _ => ?_)
    rw [← andThen_finishAfter (f := tickReleaseEffect) (fun _ => rfl), ← tickBody_finishCall]
    rfl

/-- Every operation but a decoder call commutes with a finished call. -/
theorem exec_finishCall {i : Instr} (hdecode : ∀ qs, i ≠ .decode qs) (hrepeat : ∀ qs, i ≠ .isRepeat qs) (s : State) :
    exec i (finishCall r s) = finishAfter r (exec i s) := by
  cases i with
  | start modeOk =>
    exact whenEnabled_finishCall Iff.rfl (fun _ => congrArg Host.Outcome.next (startEffect_finishCall modeOk s))
  | adv dt => rfl
  | stop | eGuard lvl | eAcq | eRel | eUnguard | tAcq | tRel => exact whenEnabled_finishCall Iff.rfl (fun _ => rfl)
  | tCheck => exact whenEnabled_finishCall Iff.rfl (fun _ => congrArg Host.Outcome.next (checkEffect_finishCall s))
  | edge lvl =>
    refine whenEnabled_finishCall Iff.rfl (fun _ => ?_)
    rw [← andThen_finishAfter (f := fun u => unguardEffect (edgeReleaseEffect u)) (fun _ => rfl), ← edgeBody_finishCall]
    rfl
  | eBody => exact whenEnabled_finishCall Iff.rfl (fun _ => edgeBody_finishCall s)
  | tick => exact execTick_finishCall s
  | tBody => exact whenEnabled_finishCall Iff.rfl (fun _ => tickBody_finishCall s)
  | decode ps => exact absurd rfl (hdecode ps)
  | isRepeat ps => exact absurd rfl (hrepeat ps)

end

/-! The two orders. -/

theorem runInstrs_two (i j : Instr) (s : State) : runInstrs [i, j] s = andThen (exec i s) (exec j) := by
  simp only [runInstrs]
  cases exec i s with
  | next t =>
    simp only [andThen_next]
    cases exec j t <;> rfl
  | fault _ | refused _ => rfl

/-- A call first is the call finished on what the other operation answers. -/
theorem IsCall.run_before {c i : Instr} {r : Params → CallResult} (hc : IsCall c r) (hdecode : ∀ qs, i ≠ .decode qs)
    (hrepeat : ∀ qs, i ≠ .isRepeat qs) {s : State} (hfault : s.runState ≠ .fault) :
    runInstrs [c, i] s = finishAfter (r s.params) (exec i s) := by
  rw [runInstrs_two, hc.exec_eq hfault, andThen_next, exec_finishCall hdecode hrepeat]

/-- A call second is the same, unless the other operation enters `FAULT`. -/
theorem IsCall.run_after {c i : Instr} {r : Params → CallResult} (hc : IsCall c r) {s : State}
    (hstays : ∀ t, exec i s = .next t → t.runState ≠ .fault) : runInstrs [i, c] s = finishAfter (r s.params) (exec i s) := by
  rw [runInstrs_two]
  cases h : exec i s with
  | next t =>
    rw [andThen_next, hc.exec_eq (hstays t h), (exec_extends h).params]
    rfl
  | fault _ | refused _ => rfl

/-- Only a decoder call writes the results (R103). -/
theorem exec_results_eq {i : Instr} {s t : State} (hdecode : ∀ qs, i ≠ .decode qs) (hrepeat : ∀ qs, i ≠ .isRepeat qs)
    (h : exec i s = .next t) : t.results = s.results := by
  have hcons : .cons ∉ i.agents := by
    cases i with
    | decode ps => exact absurd rfl (hdecode ps)
    | isRepeat ps => exact absurd rfl (hrepeat ps)
    | start _ | stop | adv _ | edge _ | tick | eGuard _ | eAcq | eBody | eRel | eUnguard | tCheck | tAcq | tBody | tRel =>
      simp [Instr.agents]
  by_contra hmoved
  obtain ⟨-, -, -, -, -, -, -, -, -, -, -, -, honly⟩ := stateMovesOnlyByItsAgents i s t h
  exact hcons (honly (.inl hmoved))

/-- An operation that enters `FAULT` is no decoder call. -/
theorem not_call_of_entersFault {i : Instr} {s t : State} (hfault : s.runState ≠ .fault) (h : exec i s = .next t)
    (henters : t.runState = .fault) : (∀ qs, i ≠ .decode qs) ∧ ∀ qs, i ≠ .isRepeat qs := by
  refine ⟨?_, ?_⟩ <;> rintro qs rfl
  · obtain ⟨-, -, rfl⟩ := exec_decode_next.mp h
    exact hfault henters
  · obtain ⟨-, -, rfl⟩ := exec_isRepeat_next.mp h
    exact hfault henters

/-- Around an operation that enters `FAULT` only the call before it has a step, and keeps its result. -/
theorem IsCall.around_fault {c i : Instr} {r : Params → CallResult} (hc : IsCall c r) {s t : State} (hfault : s.runState ≠ .fault)
    (h : exec i s = .next t) (henters : t.runState = .fault) :
    NoStep (runInstrs [i, c] s) ∧
    ∃ u, runInstrs [c, i] s = .next u ∧ u.results = s.results ++ [r s.params] ∧
      u = { t with results := u.results, nec := u.nec, draws := u.draws } := by
  obtain ⟨hdecode, hrepeat⟩ := not_call_of_entersFault hfault h henters
  refine ⟨?after, finishCall (r s.params) t, ?before, ?result, rfl⟩
  case after =>
    rw [runInstrs_two, h]
    exact noStep_inFault henters hc.ne_adv
  case before =>
    rw [hc.run_before hdecode hrepeat hfault, h]
    rfl
  case result => rw [finishCall_results, exec_results_eq hdecode hrepeat h]

/-- Settles O59: in either order the outcome is the call finished on what the other operation answers (`run_before`, `run_after`),
unless that is in `FAULT` (`around_fault`). -/
theorem decoderSharesNothing : Obligations.DecoderSharesNothing := by
  refine ⟨fun s ps i hlen hdecode hrepeat hfault hstays => ?commute, fun s t ps i hlen hfault h henters => ?around⟩
  case commute =>
    have hboth {c : Instr} {r : Params → CallResult} (hc : IsCall c r) : runInstrs [c, i] s = runInstrs [i, c] s :=
      (hc.run_before hdecode hrepeat hfault).trans (hc.run_after hstays).symm
    exact ⟨hboth (isCall_decode hlen), hboth (isCall_isRepeat hlen)⟩
  case around =>
    obtain ⟨hafter, hbefore⟩ := (isCall_decode hlen).around_fault hfault h henters
    obtain ⟨hafter', hbefore'⟩ := (isCall_isRepeat hlen).around_fault hfault h henters
    exact ⟨hafter, hafter', hbefore, hbefore'⟩

end Sys2Proof.Machine
end

section
/-! Words and operations (spec/30_encoding.md R90, R91, R102 to R107): the decoder reads exactly the encodings, and its words are those
of the opcode table. -/

namespace Sys2Proof

/-! Operations and heads. -/

/-- The head that the event word of an operation says (R102). -/
def Instr.head : Instr → Head
  | .decode ps   => .decodeCall ps.length
  | .isRepeat ps => .isRepeatCall ps.length
  | i            => .op i

theorem head_eq_op {i j : Instr} (h : i.head = .op j) : i = j := by
  cases i with
  | decode _ | isRepeat _ => cases h
  | start _ | stop | adv _ | edge _ | tick | eGuard _ | eAcq | eBody | eRel | eUnguard | tCheck | tAcq | tBody | tRel =>
    exact Head.op.inj h

theorem head_eq_decodeCall {i : Instr} {n : Nat} (h : i.head = .decodeCall n) : ∃ ps, i = .decode ps ∧ ps.length = n := by
  cases i with
  | decode ps => exact ⟨ps, rfl, Head.decodeCall.inj h⟩
  | start _ | stop | adv _ | edge _ | tick | eGuard _ | eAcq | eBody | eRel | eUnguard | tCheck | tAcq | tBody | tRel
  | isRepeat _ => cases h

theorem head_eq_isRepeatCall {i : Instr} {n : Nat} (h : i.head = .isRepeatCall n) : ∃ ps, i = .isRepeat ps ∧ ps.length = n := by
  cases i with
  | isRepeat ps => exact ⟨ps, rfl, Head.isRepeatCall.inj h⟩
  | start _ | stop | adv _ | edge _ | tick | eGuard _ | eAcq | eBody | eRel | eUnguard | tCheck | tAcq | tBody | tRel
  | decode _ => cases h

/-- An operand of a well-formed operation sets no reserved bit, and its opcode makes the operation's head of it (R103, R107). -/
theorem operand_reads_back {i : Instr} (hi : i.wellFormed = true) :
    i.operand &&& i.opcode.format.reserved = 0#64 ∧ i.opcode.head i.operand = i.head := by
  cases i with
  | start b | edge b | eGuard b =>
    exact ⟨operandOfBool_reserved b, by simp [Instr.opcode, Instr.operand, Opcode.head, Instr.head]⟩
  | adv dt => exact ⟨reserved_q dt, rfl⟩
  | decode ps =>
    have hlen := (wellFormed_decode ps).mp hi
    exact ⟨ofNat_reserved hlen, congrArg Head.decodeCall (countOperand_ofNat hlen)⟩
  | isRepeat ps =>
    have hlen := (wellFormed_isRepeat ps).mp hi
    exact ⟨ofNat_reserved hlen, congrArg Head.isRepeatCall (countOperand_ofNat hlen)⟩
  | stop | tick | eAcq | eBody | eRel | eUnguard | tCheck | tAcq | tBody | tRel => exact ⟨BitVec.zero_and, rfl⟩

/-- Where an opcode makes an operation's head of an operand with no reserved bit set, it is that operation's opcode and operand. -/
theorem operand_of_head {o : Opcode} {x : U64} {i : Instr} (hreserved : x &&& o.format.reserved = 0#64) (h : i.head = o.head x) :
    i.wellFormed = true ∧ i.opcode = o ∧ i.operand = x := by
  cases o with
  | start | edge | eGuard => obtain rfl := head_eq_op h; exact ⟨rfl, rfl, operandOfBool_boolOperand hreserved⟩
  | adv => obtain rfl := head_eq_op h; exact ⟨rfl, rfl, rfl⟩
  | decode =>
    obtain ⟨ps, rfl, hlen⟩ := head_eq_decodeCall h
    obtain ⟨hcount, hfits⟩ := ofNat_countOperand hreserved
    exact ⟨(wellFormed_decode ps).mpr (hlen ▸ hfits), rfl, by rw [Instr.operand, hlen, hcount]⟩
  | isRepeat =>
    obtain ⟨ps, rfl, hlen⟩ := head_eq_isRepeatCall h
    obtain ⟨hcount, hfits⟩ := ofNat_countOperand hreserved
    exact ⟨(wellFormed_isRepeat ps).mpr (hlen ▸ hfits), rfl, by rw [Instr.operand, hlen, hcount]⟩
  | stop | tick | eAcq | eBody | eRel | eUnguard | tCheck | tAcq | tBody | tRel =>
    obtain rfl := head_eq_op h
    exact ⟨rfl, rfl, ((reserved_z_iff x).mp hreserved).symm⟩

/-- A word has the head of an operation exactly where the operation is well formed and it is its event word. -/
theorem decodeHead_eq_head_iff {ew : EventWord} {i : Instr} :
    decodeHead ew = .ok i.head ↔ i.wellFormed = true ∧ ew = i.eventWord := by
  rw [decodeHead_eq_ok]
  constructor
  · rintro ⟨o, hcode, hreserved, hhead⟩
    obtain ⟨hi, rfl, hoperand⟩ := operand_of_head hreserved hhead
    exact ⟨hi, by rw [Instr.eventWord, ← hcode, hoperand, append_opcodeByte_operandOf]⟩
  · rintro ⟨hi, rfl⟩
    obtain ⟨hreserved, hhead⟩ := operand_reads_back hi
    exact ⟨i.opcode, opcodeByte_eventWord i, by rwa [operandOf_eventWord], by rw [operandOf_eventWord, hhead]⟩

/-! Heads and what follows them. -/

/-- The Pulse records of a list, as they follow a decoder word (R104). -/
def recordWords (ps : List Pulse) : List PortWord := ps.map (fun p => .record (recordOfPulse p))

theorem takeRecords_iff {n : Nat} {ws rest : List PortWord} {ps : List Pulse} :
    takeRecords n ws = some (ps, rest) ↔ ps.length = n ∧ ws = recordWords ps ++ rest := by
  refine ⟨takeRecords_eq_some, ?_⟩
  rintro ⟨rfl, rfl⟩
  exact takeRecords_records ps rest

/-- A whole operation that an opcode selects is its own head, and carries no pulses. -/
theorem opcode_head_eq_op {o : Opcode} {x : U64} {j : Instr} (h : o.head x = .op j) : j.head = .op j ∧ j.pulses = [] := by
  cases o with
  | decode | isRepeat => cases h
  | start | stop | adv | edge | tick | eGuard | eAcq | eBody | eRel | eUnguard | tCheck | tAcq | tBody | tRel =>
    obtain rfl := Head.op.inj h
    exact ⟨rfl, rfl⟩

theorem decode_of_op {ew : EventWord} {j : Instr} (ws : List PortWord) (h : decodeHead ew = .ok (.op j)) :
    decode (.event ew :: ws) = .ok (j, ws) := by
  simp [decode, h]

theorem decode_of_decodeCall {ew : EventWord} {n : Nat} {ws rest : List PortWord} {i : Instr}
    (h : decodeHead ew = .ok (.decodeCall n)) :
    decode (.event ew :: ws) = .ok (i, rest) ↔ ∃ ps, takeRecords n ws = some (ps, rest) ∧ i = .decode ps := by
  cases htake : takeRecords n ws with
  | none => simp [decode, h, htake]
  | some taken =>
    obtain ⟨qs, left⟩ := taken
    simp [decode, h, htake, and_comm, eq_comm (a := i)]

theorem decode_of_isRepeatCall {ew : EventWord} {n : Nat} {ws rest : List PortWord} {i : Instr}
    (h : decodeHead ew = .ok (.isRepeatCall n)) :
    decode (.event ew :: ws) = .ok (i, rest) ↔ ∃ ps, takeRecords n ws = some (ps, rest) ∧ i = .isRepeat ps := by
  cases htake : takeRecords n ws with
  | none => simp [decode, h, htake]
  | some taken =>
    obtain ⟨qs, left⟩ := taken
    simp [decode, h, htake, and_comm, eq_comm (a := i)]

/-- A word and what follows it decode to an operation exactly where the word has its head and its pulses follow (R102, R104). -/
theorem decode_event_eq_ok {ew : EventWord} {ws rest : List PortWord} {i : Instr} :
    decode (.event ew :: ws) = .ok (i, rest) ↔ decodeHead ew = .ok i.head ∧ ws = recordWords i.pulses ++ rest := by
  constructor
  · intro h
    cases hhead : decodeHead ew with
    | error e => rw [decode_event_error ws hhead] at h; cases h
    | ok head =>
      cases head with
      | op j =>
        obtain ⟨o, -, -, ho⟩ := decodeHead_eq_ok.mp hhead
        obtain ⟨hself, hnone⟩ := opcode_head_eq_op ho.symm
        rw [decode_of_op ws hhead] at h
        cases h
        exact ⟨by rw [hself], by rw [hnone]; rfl⟩
      | decodeCall n =>
        obtain ⟨ps, htake, rfl⟩ := (decode_of_decodeCall hhead).mp h
        obtain ⟨rfl, hws⟩ := takeRecords_iff.mp htake
        exact ⟨rfl, hws⟩
      | isRepeatCall n =>
        obtain ⟨ps, htake, rfl⟩ := (decode_of_isRepeatCall hhead).mp h
        obtain ⟨rfl, hws⟩ := takeRecords_iff.mp htake
        exact ⟨rfl, hws⟩
  · rintro ⟨hhead, hws⟩
    cases i with
    | decode ps => exact (decode_of_decodeCall hhead).mpr ⟨ps, takeRecords_iff.mpr ⟨rfl, hws⟩, rfl⟩
    | isRepeat ps => exact (decode_of_isRepeatCall hhead).mpr ⟨ps, takeRecords_iff.mpr ⟨rfl, hws⟩, rfl⟩
    | start _ | stop | adv _ | edge _ | tick | eGuard _ | eAcq | eBody | eRel | eUnguard | tCheck | tAcq | tBody | tRel =>
      exact (decode_of_op ws hhead).trans (congrArg (fun ws => Except.ok (_, ws)) hws)

/-! The round trips. -/

/-- What decodes to an operation is its encoding and what is left, and the operation is well formed. -/
theorem decode_eq_ok_iff {ws rest : List PortWord} {i : Instr} :
    decode ws = .ok (i, rest) ↔ i.wellFormed = true ∧ ws = encode i ++ rest := by
  cases ws with
  | nil => simp [decode, encode]
  | cons w ws =>
    cases w with
    | record r => simp [decode, encode]
    | event ew =>
      rw [decode_event_eq_ok, decodeHead_eq_head_iff, encode, List.cons_append, List.cons.injEq, PortWord.event.injEq, and_assoc]
      exact Iff.rfl

/-- Settles O6: the backward direction of `decode_eq_ok_iff`. -/
theorem decodeOfEncodeIsTheOperation : Obligations.DecodeOfEncodeIsTheOperation :=
  fun _ _ hi => decode_eq_ok_iff.mpr ⟨hi, rfl⟩

/-- Settles O7: the forward direction of `decode_eq_ok_iff`. -/
theorem encodeOfDecodeIsTheWords : Obligations.EncodeOfDecodeIsTheWords :=
  fun _ _ _ h => decode_eq_ok_iff.mp h

/-- Settles O10: the words are closed. -/
theorem vectorWordsDecode : Obligations.VectorWordsDecode := by
  unfold Obligations.VectorWordsDecode
  decide

/-! The opcode table. -/

/-- The mnemonic of an opcode (R103). -/
def Opcode.mnemonic : Opcode → String
  | .start    => "START"
  | .stop     => "STOP"
  | .adv      => "ADV"
  | .edge     => "EDGE"
  | .tick     => "TICK"
  | .eGuard   => "E_GUARD"
  | .eAcq     => "E_ACQ"
  | .eBody    => "E_BODY"
  | .eRel     => "E_REL"
  | .eUnguard => "E_UNGUARD"
  | .tCheck   => "T_CHECK"
  | .tAcq     => "T_ACQ"
  | .tBody    => "T_BODY"
  | .tRel     => "T_REL"
  | .decode   => "DECODE"
  | .isRepeat => "ISREPEAT"

theorem mnemonic_opcode (i : Instr) : i.opcode.mnemonic = i.mnemonic := by cases i <;> rfl

/-- The row of an opcode: its mnemonic, its byte, and its reserved operand bits fixed at zero (R103). -/
def Opcode.row (o : Opcode) : TableRow :=
  { mnemonic := o.mnemonic, pattern := o.fixedBits.1, mask := o.fixedBits.2 }

theorem opcodeTable_eq_rows : opcodeTable = Opcode.all.map Opcode.row := by decide

theorem mem_opcodeTable_iff {r : TableRow} : r ∈ opcodeTable ↔ ∃ o : Opcode, r = o.row := by
  have hall (o : Opcode) : o ∈ Opcode.all := by cases o <;> decide
  rw [opcodeTable_eq_rows, List.mem_map]
  exact ⟨fun ⟨o, _, ho⟩ => ⟨o, ho.symm⟩, fun ⟨o, ho⟩ => ⟨o, hall o, ho.symm⟩⟩

/-- The row of an opcode fits the words with its byte and no reserved operand bit set (R103). -/
theorem row_fits_iff {o : Opcode} {ew : EventWord} :
    o.row.fits ew = true ↔ opcodeByte ew = o.code ∧ operandOf ew &&& o.format.reserved = 0#64 := by
  have hfits : o.row.fits ew = true ↔ ew &&& (0xFF#8 ++ o.format.reserved) = o.code ++ 0#64 := beq_iff_eq
  rw [hfits]
  refine ⟨fun h => ?_, fun ⟨hcode, hreserved⟩ => and_mask_eq_pattern hcode hreserved⟩
  rw [← append_opcodeByte_operandOf ew, BitVec.and_append] at h
  have hcode := congrArg opcodeByte h
  have hoperand := congrArg operandOf h
  rw [opcodeByte_append, opcodeByte_append] at hcode
  rw [operandOf_append, operandOf_append] at hoperand
  exact ⟨by rwa [show (0xFF#8 : Byte) = BitVec.allOnes 8 from rfl, BitVec.and_allOnes] at hcode, hoperand⟩

/-- Settles O8: a head and a fitting row ask the same of a word, and the word's byte leaves one opcode. -/
theorem decoderAcceptsExactlyTheTable : Obligations.DecoderAcceptsExactlyTheTable := by
  intro ew
  refine ⟨⟨?fits, ?accepted⟩, fun r hr r' hr' hfit hfit' => ?unique⟩
  case fits =>
    rintro ⟨h, hhead⟩
    obtain ⟨o, hcode, hreserved, -⟩ := decodeHead_eq_ok.mp hhead
    exact ⟨o.row, mem_opcodeTable_iff.mpr ⟨o, rfl⟩, row_fits_iff.mpr ⟨hcode, hreserved⟩⟩
  case accepted =>
    rintro ⟨r, hr, hfit⟩
    obtain ⟨o, rfl⟩ := mem_opcodeTable_iff.mp hr
    obtain ⟨hcode, hreserved⟩ := row_fits_iff.mp hfit
    exact ⟨_, decodeHead_eq_ok.mpr ⟨o, hcode, hreserved, rfl⟩⟩
  case unique =>
    obtain ⟨o, rfl⟩ := mem_opcodeTable_iff.mp hr
    obtain ⟨o', rfl⟩ := mem_opcodeTable_iff.mp hr'
    obtain ⟨hcode, -⟩ := row_fits_iff.mp hfit
    obtain ⟨hcode', -⟩ := row_fits_iff.mp hfit'
    exact congrArg Opcode.row (code_injective (hcode.symm.trans hcode'))

/-- Settles O9: the row of the operation's opcode. -/
theorem encodedWordFitsItsRow : Obligations.EncodedWordFitsItsRow := by
  intro i hi
  obtain ⟨hreserved, -⟩ := operand_reads_back hi
  refine ⟨i.opcode.row, mem_opcodeTable_iff.mpr ⟨_, rfl⟩, mnemonic_opcode i, row_fits_iff.mpr ?_⟩
  rw [opcodeByte_eventWord, operandOf_eventWord]
  exact ⟨rfl, hreserved⟩

/-! A flush event read back by the decoder. -/

namespace Machine

/-- A flush with a wire form is within the bounds of its header, and that is its form (R97, log 16). -/
theorem wire_flush_eq_some {ps : List Pulse} {r : FlushReason} {total : Nat} {fh : BitVec 81} {records : List PulseRecord}
    (h : Event.wire (.flush ps r total) = some (.flush fh records)) :
    ps.length ≤ 255 ∧ fh = flushHeaderBits r ps.length total ∧ records = ps.map recordOfPulse := by
  simp only [Event.wire] at h
  split at h
  · rename_i hbounds
    obtain ⟨hlen, -⟩ := hbounds
    simp only [Option.some.injEq, EventWire.flush.injEq] at h
    obtain ⟨hheader, hrecords⟩ := h
    exact ⟨hlen, hheader.symm, hrecords.symm⟩
  · cases h

/-- A count byte placed as an operand is the operand of its number (R104). -/
theorem zero_append_count {n : Nat} (hn : n ≤ 255) : (0#56 ++ BitVec.ofNat 8 n : U64) = BitVec.ofNat 64 n := by
  apply BitVec.eq_of_toNat_eq
  rw [BitVec.toNat_append]
  simp
  omega

/-- Settles O13: the header's count and the records are the operand and the words of the call's encoding. -/
theorem flushEventReplaysToTheDecoder : Obligations.FlushEventReplaysToTheDecoder := by
  intro ps r total fh records rest hwire
  obtain ⟨hlen, rfl, rfl⟩ := wire_flush_eq_some hwire
  obtain ⟨-, -, hcount, -⟩ := flushHeaderBits_fields r ps.length total
  rw [hcount, zero_append_count hlen, List.map_map]
  exact ⟨decode_eq_ok_iff.mpr ⟨(wellFormed_decode ps).mpr hlen, rfl⟩,
    decode_eq_ok_iff.mpr ⟨(wellFormed_isRepeat ps).mpr hlen, rfl⟩⟩

/-- Settles O14: the lines are closed. -/
theorem traceLinesAssemble : Obligations.TraceLinesAssemble := by
  unfold Obligations.TraceLinesAssemble
  decide

end Machine
end Sys2Proof
end

section
/-! The NEC decoder as a function (spec/41_nec_decoder.md sections 2 to 4): the shapes of a repeat code, the bits of a train, the
synthetic train read back. -/

namespace Sys2Proof.Nec

open Sys2Proof.Machine (trainDuration)

/-! The repeat code. -/

/-- The leader scan over four pulses. -/
theorem findFirst_leader_four (a b c d : Pulse) :
    findFirst [a, b, c, d] 0 isLeader =
      if isLeader a then some 0 else if isLeader b then some 1 else if isLeader c then some 2 else if isLeader d then some 3
      else none := by
  simp [findFirst_step, findFirst_none]

theorem inRepeatSum_iff {n : Nat} : inRepeatSum n = true ↔ 12000 ≤ n ∧ n ≤ 120000 := by simp [inRepeatSum]

/-- A repeat code of four pulses: the leader leaves room for two more only where it is the first or the second (R195). -/
theorem isRepeatCode_four (a b c d : Pulse) :
    isRepeatCode [a, b, c, d] = (inRepeatSum (trainDuration [a, b, c, d]) &&
      ((isLeader a && isRepeatMark b && isShortHigh c) || (!isLeader a && isLeader b && isRepeatMark c && isShortHigh d))) := by
  unfold isRepeatCode
  rw [findFirst_leader_four]
  cases inRepeatSum (trainDuration [a, b, c, d]) with
  | false => simp
  | true =>
    cases isLeader a with
    | true => simp
    | false =>
      cases isLeader b with
      | true => simp
      | false => cases isLeader c <;> cases isLeader d <;> simp

theorem isRepeatCode_length {ps : List Pulse} (h : isRepeatCode ps = true) : ps.length = 4 := by
  by_contra hlen
  simp [isRepeatCode, hlen] at h

/-- Settles O53: only four pulses can be a repeat code, and for four `isRepeatCode_four` gives the two shapes. -/
theorem repeatCodeHasTwoShapes : Obligations.RepeatCodeHasTwoShapes := by
  intro ps
  constructor
  · intro h
    obtain ⟨a, b, c, d, rfl⟩ := List.length_eq_four.mp (isRepeatCode_length h)
    rw [isRepeatCode_four] at h
    refine ⟨a, b, c, d, rfl, ?_⟩
    simpa [inRepeatSum_iff, and_assoc] using h
  · rintro ⟨a, b, c, d, rfl, h⟩
    rw [isRepeatCode_four]
    simpa [inRepeatSum_iff, and_assoc] using h

/-! The bits of a train. -/

/-- The bits behind the cursor, where the train ends in a stop pulse and holds all 32 (R199 to R202). -/
def bodyBits (ps : List Pulse) (cursor : Nat) : Option (List Bool) :=
  ps.getLast?.bind fun last =>
    let bits := walkPairs (ps.dropLast.drop cursor) []
    if isShortHigh last ∧ 32 ≤ bits.length then some bits else none

/-- The bits of a train with a leader and a header mark (R197, R198). -/
def trainBits (ps : List Pulse) : Option (List Bool) :=
  (findFirst ps 0 isLeader).bind fun i => (findFirst ps (i + 1) isHeaderMark).bind fun j => bodyBits ps (j + 1)

theorem decodeBody_eq (order : BitOrder) (ps : List Pulse) (cursor : Nat) :
    decodeBody order ps cursor = (bodyBits ps cursor).elim .rejected (pack order) := by
  unfold decodeBody bodyBits
  cases ps.getLast? with
  | none => rfl
  | some last =>
    by_cases hbits : (walkPairs (ps.dropLast.drop cursor) []).length < 32
    · simp [hbits, Nat.not_le.mpr hbits]
    · cases hstop : isShortHigh last <;> simp [hstop, hbits, Nat.not_lt.mp hbits]

/-- The scans of `decode`, one after the other (R197, R198, R205). -/
theorem decodeTrain_of_not_repeat {order : BitOrder} {ps : List Pulse} (h : isRepeatCode ps = false) :
    decodeTrain order ps = (findFirst ps 0 isLeader).elim .rejected fun i =>
      (findFirst ps (i + 1) isHeaderMark).elim .rejected fun j => decodeBody order ps (j + 1) := by
  simp only [decodeTrain, h, Bool.false_eq_true, if_false]
  cases findFirst ps 0 isLeader with
  | none => rfl
  | some i => simp only [Option.elim_some]; cases findFirst ps (i + 1) isHeaderMark <;> rfl

/-- The bit order takes part in the packing alone. -/
theorem decodeTrain_eq_pack {order : BitOrder} {ps : List Pulse} (h : isRepeatCode ps = false) :
    decodeTrain order ps = (trainBits ps).elim .rejected (pack order) := by
  rw [decodeTrain_of_not_repeat h, trainBits]
  cases findFirst ps 0 isLeader with
  | none => rfl
  | some i =>
    simp only [Option.elim_some, Option.bind_some]
    cases findFirst ps (i + 1) isHeaderMark with
    | none => rfl
    | some j => exact decodeBody_eq order ps (j + 1)

theorem decodeTrain_of_repeat {order : BitOrder} {ps : List Pulse} (h : isRepeatCode ps = true) :
    decodeTrain order ps = .repeatCode := if_pos h

/-- A `Bytes` result is the packing of the train's bits. -/
theorem decodeTrain_eq_bytes {order : BitOrder} {ps : List Pulse} {b0 b1 b2 b3 : Byte} :
    decodeTrain order ps = .bytes b0 b1 b2 b3 ↔
      isRepeatCode ps = false ∧ ∃ bits, trainBits ps = some bits ∧ pack order bits = .bytes b0 b1 b2 b3 := by
  cases hrepeat : isRepeatCode ps with
  | true => simp [decodeTrain_of_repeat hrepeat]
  | false => cases hbits : trainBits ps <;> simp [decodeTrain_eq_pack hrepeat, hbits]

/-- Bits are found only behind a leader and a header mark, before a stop pulse, and all 32 of them. -/
theorem trainBits_eq_some {ps : List Pulse} {bits : List Bool} (h : trainBits ps = some bits) :
    ∃ j last, 1 ≤ j ∧ ps.getLast? = some last ∧ isShortHigh last = true ∧
      bits = walkPairs (ps.dropLast.drop (j + 1)) [] ∧ 32 ≤ bits.length := by
  obtain ⟨i, -, hmark⟩ := Option.bind_eq_some_iff.mp h
  obtain ⟨j, hj, hbody⟩ := Option.bind_eq_some_iff.mp hmark
  obtain ⟨last, hlast, hbits⟩ := Option.bind_eq_some_iff.mp hbody
  obtain ⟨hle, -⟩ := findFirst_spec hj
  simp only [Option.ite_none_right_eq_some, Option.some.injEq] at hbits
  obtain ⟨⟨hstop, hlen⟩, rfl⟩ := hbits
  exact ⟨j, last, by omega, hlast, hstop, rfl, hlen⟩

theorem decodeTrain_eq_repeatCode {order : BitOrder} {ps : List Pulse} :
    decodeTrain order ps = .repeatCode ↔ isRepeatCode ps = true := by
  cases hrepeat : isRepeatCode ps with
  | true => simp [decodeTrain_of_repeat hrepeat]
  | false => cases hbits : trainBits ps <;> simp [decodeTrain_eq_pack hrepeat, hbits, pack]

/-- Settles O54: 32 bits take 64 pulses between the two of the header and the stop pulse (`trainBits_eq_some`). -/
theorem bytesNeedSixtySevenPulses : Obligations.BytesNeedSixtySevenPulses := by
  refine fun order ps => ⟨decodeTrain_eq_repeatCode, fun b0 b1 b2 b3 h => ?_⟩
  obtain ⟨-, bits, hbits, -⟩ := decodeTrain_eq_bytes.mp h
  obtain ⟨j, last, hj, hlast, hstop, rfl, hlen⟩ := trainBits_eq_some hbits
  obtain ⟨hlevel, hshort⟩ := Bool.and_eq_true_iff.mp hstop
  obtain ⟨hwalk, -⟩ := walkPairs_length (ps.dropLast.drop (j + 1)) []
  refine ⟨?_, last, hlast, hlevel, inShort_iff.mp hshort⟩
  simp only [List.length_drop, List.length_dropLast, List.length_nil] at hwalk
  omega

/-- Settles O57: the train's bits are the same for both orders, and there are at least 32 of them (`pack_reverse`). -/
theorem bitOrdersAreByteReversals : Obligations.BitOrdersAreByteReversals := by
  intro ps b0 b1 b2 b3
  rw [decodeTrain_eq_bytes, decodeTrain_eq_bytes]
  refine and_congr_right fun _ => exists_congr fun bits => and_congr_right fun hbits => ?_
  obtain ⟨-, -, -, -, -, -, hlen⟩ := trainBits_eq_some hbits
  exact pack_reverse hlen b0 b1 b2 b3

/-! The synthetic train. -/

/-- The leader and the header mark of a frame are found where they stand (R110). -/
theorem findFirst_leader_frame (sp : U64) (marks : List U64) : findFirst (frameOfMarks sp marks) 0 isLeader = some 0 := by
  rw [findFirst_step (by simp [frameOfMarks])]
  exact if_pos (show isLeader ⟨true, 9000#64⟩ = true by decide)

theorem findFirst_headerMark_frame (sp : U64) (marks : List U64) :
    findFirst (frameOfMarks sp marks) 1 isHeaderMark = some 1 := by
  rw [findFirst_step (by simp [frameOfMarks])]
  exact if_pos (show isHeaderMark ⟨false, 4500#64⟩ = true by decide)

/-- Between header and stop pulse stand the pairs. -/
theorem frame_pairs (sp : U64) (marks : List U64) :
    (frameOfMarks sp marks).dropLast.drop 2 = marks.flatMap (fun m => [⟨true, sp⟩, ⟨false, m⟩]) := by
  rw [frameOfMarks, List.dropLast_concat]
  rfl

theorem trainBits_frame {sp : U64} {marks : List U64} (hsp : inShort sp = true) (hmarks : marks.length = 32) :
    trainBits (frameOfMarks sp marks) = some (marks.map (fun m => !inShort m)) := by
  have hwalk : walkPairs ((frameOfMarks sp marks).dropLast.drop 2) [] = marks.map (fun m => !inShort m) := by
    rw [frame_pairs, walkPairs_frame sp hsp marks [] (by simp [hmarks]), List.nil_append]
  have hlast : (frameOfMarks sp marks).getLast? = some ⟨true, 560#64⟩ := List.getLast?_concat
  have hstop : isShortHigh ⟨true, 560#64⟩ = true := by decide
  simp [trainBits, findFirst_leader_frame, findFirst_headerMark_frame, bodyBits, hlast, hwalk, hstop, hmarks]

theorem isRepeatCode_frame {sp : U64} {marks : List U64} (hmarks : marks.length = 32) :
    isRepeatCode (frameOfMarks sp marks) = false := by
  refine Bool.eq_false_iff.mpr fun h => ?_
  have hlen := isRepeatCode_length h
  simp [frameOfMarks, hmarks] at hlen

theorem decodeTrain_frame (order : BitOrder) {sp : U64} {marks : List U64} (hsp : inShort sp = true) (hmarks : marks.length = 32) :
    decodeTrain order (frameOfMarks sp marks) = pack order (marks.map (fun m => !inShort m)) := by
  rw [decodeTrain_eq_pack (isRepeatCode_frame hmarks), trainBits_frame hsp hmarks]
  rfl

/-- Settles O55: the bits of a frame are those of its marks (`trainBits_frame`). -/
theorem eachMarkDecidesItsBit : Obligations.EachMarkDecidesItsBit :=
  fun order _ _ hmarks hlo hhi => decodeTrain_frame order (inShort_iff.mpr ⟨hlo, hhi⟩) hmarks

/-- A mark sent for a bit is read as that bit. -/
theorem mark_reads_back {one zero : U64} (hone : inShort one = false) (hzero : inShort zero = true) (v : Bool) :
    (!inShort (if v then one else zero)) = v := by
  cases v <;> simp [hone, hzero]

/-- Settles O56: each mark is read as the bit it was sent for, and the bits of four bytes pack to them. -/
theorem necFrameRoundTrip : Obligations.NecFrameRoundTrip := by
  intro order b0 b1 b2 b3 one zero sp hsp hsp' hzero hzero' hone
  have hshort : inShort sp = true := inShort_iff.mpr ⟨hsp, hsp'⟩
  have hzeroShort : inShort zero = true := inShort_iff.mpr ⟨hzero, hzero'⟩
  have honeLong : inShort one = false := by
    rw [Bool.eq_false_iff, Ne, inShort_iff]
    omega
  rw [necFrame, decodeTrain_frame order hshort (by simp), List.map_map]
  have hbits : (fun m => !inShort m) ∘ (fun v => if v then one else zero) = id :=
    funext (mark_reads_back honeLong hzeroShort)
  rw [hbits, List.map_id, pack_bitsOfByte]

end Sys2Proof.Nec
end

section
/-! The sequential decoder (spec/41_nec_decoder.md R210): from each state of its table it reaches `D_DONE` with what the function
makes of the rest of the train. -/

namespace Sys2Proof.Nec

open Sys2Proof.Machine (NecRegs DecState)

/-! Reaching `D_DONE`. -/

/-- Within `n` steps the machine is done, with the result `r`. -/
def SeqFinishes (order : BitOrder) (ps : List Pulse) (n : Nat) (g : NecRegs) (r : DecodeResult) : Prop :=
  ∃ k g', k ≤ n ∧ seqRun order ps k g = some g' ∧ g'.decState = .done ∧ g'.res = r

section
variable {order : BitOrder} {ps : List Pulse} {n : Nat} {g g' : NecRegs} {r : DecodeResult}

theorem SeqFinishes.mono {m : Nat} (h : SeqFinishes order ps n g r) (hle : n ≤ m) : SeqFinishes order ps m g r := by
  obtain ⟨k, g', hk, hrest⟩ := h
  exact ⟨k, g', hk.trans hle, hrest⟩

/-- One step, and what follows it. -/
theorem SeqFinishes.of_step (hstep : seqStep order ps g = some g') (h : SeqFinishes order ps n g' r) :
    SeqFinishes order ps (n + 1) g r := by
  obtain ⟨k, u, hk, hrun, hdone, hres⟩ := h
  exact ⟨k + 1, u, Nat.succ_le_succ hk, by rw [seqRun, hstep]; exact hrun, hdone, hres⟩

/-- A step that goes to `D_DONE` is the last. -/
theorem SeqFinishes.of_finish (hstep : seqStep order ps g = some (seqFinish r g)) : SeqFinishes order ps (n + 1) g r :=
  .of_step hstep ⟨0, seqFinish r g, Nat.zero_le n, rfl, rfl, rfl⟩

end

/-! The comparators of the machine and of the function (R211). -/

theorem seqLeader_eq : (fun p : Pulse => p.level && classify p.duration == .space) = isLeader := by
  funext p
  rw [isLeader, classify_space]

theorem seqMark_eq : (fun p : Pulse => !p.level && classify p.duration == .mark) = isHeaderMark := by
  funext p
  rw [isHeaderMark, classify_mark]

theorem seqStop_eq (p : Pulse) : (p.level && classify p.duration == .short) = isShortHigh p := by
  rw [isShortHigh, classify_short]

theorem seqPair_eq (space mark : Pulse) :
    (space.level && !mark.level && classify space.duration == .short) = validPair space mark := by
  rw [validPair, isShortHigh, classify_short, Bool.and_right_comm]

theorem seqBit_eq (mark : Pulse) : (classify mark.duration != .short) = markBit mark := by
  rw [markBit, bne, classify_short]

/-! The pair walk. -/

/-- What the walk leaves of the train from the cursor on: the packed bits, or a rejection. -/
def walkResult (order : BitOrder) (ps : List Pulse) (cursor : Nat) (bits : List Bool) : DecodeResult :=
  let all := walkPairs (ps.dropLast.drop cursor) bits
  if all.length < 32 then .rejected else pack order all

/-- The registers of a walk: the bits so far, counted and shifted in. -/
structure Walking (g : NecRegs) (cursor : Nat) (bits : List Bool) : Prop where
  state  : g.decState = .bits
  cursor : g.cursor.toNat = cursor
  bound  : bits.length ≤ 32
  count  : g.bitcnt = BitVec.ofNat 6 bits.length
  shift  : g.sr = bits.foldl shiftIn 0#32

theorem cursor_add_toNat {c : Byte} {k : Nat} (h : c.toNat + k < 256) : (c + BitVec.ofNat 8 k).toNat = c.toNat + k := by
  rw [BitVec.toNat_add, BitVec.toNat_ofNat]
  omega

theorem Walking.bitcnt_iff {g : NecRegs} {cursor : Nat} {bits : List Bool} (hg : Walking g cursor bits) :
    g.bitcnt = 32#6 ↔ bits.length = 32 := by
  have hbound := hg.bound
  rw [hg.count, ← BitVec.toNat_inj, BitVec.toNat_ofNat, BitVec.toNat_ofNat]
  omega

section
variable {order : BitOrder} {ps : List Pulse} {g : NecRegs} {cursor : Nat} {bits : List Bool} (hg : Walking g cursor bits)
include hg

theorem Walking.seqStep_eq : seqStep order ps g = seqBits order ps g := by
  simp [seqStep, hg.state]

/-- With 32 bits the machine presents the packed bytes. -/
theorem Walking.step_full (hfull : bits.length = 32) :
    seqStep order ps g = some (seqFinish (walkResult order ps cursor bits) g) := by
  have hresult : walkResult order ps cursor bits = bytesOfShift order g.sr := by
    simp [walkResult, walkPairs_full hfull.ge, hfull, hg.shift, bytesOfShift_foldl order hfull]
  rw [hg.seqStep_eq, seqBits, if_pos (hg.bitcnt_iff.mpr hfull), hresult]

/-- Past the last pair with fewer bits the train is rejected. -/
theorem Walking.step_short (hlen : bits.length < 32) (hend : ps.length - 1 < cursor + 2) :
    seqStep order ps g = some (seqFinish (walkResult order ps cursor bits) g) := by
  have hwalk : walkPairs (ps.dropLast.drop cursor) bits = bits := by
    have hrest : (ps.dropLast.drop cursor).length < 2 := by simp; omega
    match hdrop : ps.dropLast.drop cursor with
    | [] => rfl
    | [_] => rfl
    | _ :: _ :: _ => simp [hdrop] at hrest
  have hresult : walkResult order ps cursor bits = .rejected := by simp [walkResult, hwalk, hlen]
  have hcount : ¬ g.bitcnt = 32#6 := fun h => hlen.ne (hg.bitcnt_iff.mp h)
  rw [hg.seqStep_eq, seqBits, if_neg hcount, if_pos (hg.cursor ▸ hend), hresult]

/-- Otherwise one pair is taken, valid or not. -/
theorem Walking.step_pair (hps : ps.length ≤ 255) (hlen : bits.length < 32) (hmore : cursor + 2 ≤ ps.length - 1) :
    ∃ g' bits', seqStep order ps g = some g' ∧ Walking g' (cursor + 2) bits' ∧
      walkResult order ps cursor bits = walkResult order ps (cursor + 2) bits' := by
  have hspace : cursor < ps.length := by omega
  have hmark : cursor + 1 < ps.length := by omega
  have hpair : ps.dropLast.drop cursor = ps[cursor] :: ps[cursor + 1] :: ps.dropLast.drop (cursor + 2) := by
    rw [List.drop_eq_getElem_cons (by simp; omega), List.drop_eq_getElem_cons (by simp; omega), List.getElem_dropLast,
      List.getElem_dropLast]
  have hcount : ¬ g.bitcnt = 32#6 := fun h => hlen.ne (hg.bitcnt_iff.mp h)
  have hcursor : (g.cursor + 2#8).toNat = cursor + 2 := by
    rw [← hg.cursor]
    exact cursor_add_toNat (by rw [hg.cursor]; omega)
  have hstep : seqStep order ps g = some
      (if validPair ps[cursor] ps[cursor + 1] then
        { g with sr := shiftIn g.sr (markBit ps[cursor + 1]), bitcnt := g.bitcnt + 1#6, cursor := g.cursor + 2#8 }
      else { g with cursor := g.cursor + 2#8 }) := by
    rw [hg.seqStep_eq, seqBits, if_neg hcount, if_neg (by rw [hg.cursor]; omega), hg.cursor, List.getElem?_eq_getElem hspace,
      List.getElem?_eq_getElem hmark]
    simp only [seqPair_eq, seqBit_eq]
    split <;> rfl
  refine ⟨_, if validPair ps[cursor] ps[cursor + 1] then bits ++ [markBit ps[cursor + 1]] else bits, hstep, ?walking, ?result⟩
  case walking =>
    by_cases hvalid : validPair ps[cursor] ps[cursor + 1] = true
    · rw [if_pos hvalid, if_pos hvalid]
      refine ⟨hg.state, hcursor, by simp; omega, ?_, by simp [hg.shift]⟩
      rw [hg.count, List.length_append, List.length_singleton, BitVec.ofNat_add]
    · rw [if_neg hvalid, if_neg hvalid]
      exact ⟨hg.state, hcursor, hg.bound, hg.count, hg.shift⟩
  case result => rw [walkResult, hpair, walkPairs_pair hlen, walkResult]

end

/-- The walk finishes with its result, two pulses a step and one step more. -/
theorem Walking.finishes {order : BitOrder} {ps : List Pulse} (hps : ps.length ≤ 255) {g : NecRegs} {cursor : Nat}
    {bits : List Bool} (hg : Walking g cursor bits) :
    SeqFinishes order ps (ps.length - cursor + 1) g (walkResult order ps cursor bits) := by
  by_cases hlen : bits.length < 32
  · by_cases hmore : cursor + 2 ≤ ps.length - 1
    · obtain ⟨g', bits', hstep, hg', hresult⟩ := hg.step_pair hps hlen hmore
      rw [hresult]
      exact (SeqFinishes.of_step hstep (hg'.finishes hps)).mono (by omega)
    · exact .of_finish (hg.step_short hlen (by omega))
  · exact .of_finish (hg.step_full (by have := hg.bound; omega))
termination_by ps.length - cursor

/-! The stop bit and the scans. -/

/-- From `D_STOP` the machine finishes with what `decode` makes of the train behind the header mark. -/
theorem stop_finishes {order : BitOrder} {ps : List Pulse} (hps : ps.length ≤ 255) {g : NecRegs} {cursor : Nat}
    (hstate : g.decState = .stop) (hcursor : g.cursor.toNat = cursor) (hsome : ps ≠ []) :
    SeqFinishes order ps (ps.length - cursor + 2) g (decodeBody order ps cursor) := by
  have hlast : ps.getLast? = some (ps.getLast hsome) := List.getLast?_eq_some_getLast hsome
  by_cases hstop : isShortHigh (ps.getLast hsome) = true
  · have hstep : seqStep order ps g = some { g with bitcnt := 0#6, sr := 0#32, decState := .bits } := by
      simp [seqStep, hstate, hlast, seqStop_eq, hstop]
    have hwalk : Walking { g with bitcnt := 0#6, sr := 0#32, decState := .bits } cursor [] :=
      ⟨rfl, hcursor, Nat.zero_le _, rfl, rfl⟩
    have hresult : decodeBody order ps cursor = walkResult order ps cursor [] := by simp [decodeBody, hlast, hstop, walkResult]
    rw [hresult]
    exact .of_step hstep (hwalk.finishes hps)
  · have hstep : seqStep order ps g = some (seqFinish .rejected g) := by simp [seqStep, hstate, hlast, seqStop_eq, hstop]
    have hresult : decodeBody order ps cursor = .rejected := by simp [decodeBody, hlast, hstop]
    rw [hresult]
    exact .of_finish hstep

/-- A scan from the cursor on: the machine finishes with a rejection, or with what it makes of the train behind the pulse that is
found first. -/
theorem scan_finishes {order : BitOrder} {ps : List Pulse} (hps : ps.length ≤ 255) {state found : DecState} {isHit : Pulse → Bool}
    {behind : Nat → DecodeResult}
    (hscan : ∀ g : NecRegs, g.decState = state → seqStep order ps g = seqScan ps isHit found g)
    (hfound : ∀ (g : NecRegs) (j : Nat), j < ps.length → g.decState = found → g.cursor.toNat = j + 1 →
      SeqFinishes order ps (ps.length - (j + 1) + 2) g (behind j))
    {g : NecRegs} {cursor : Nat} (hstate : g.decState = state) (hcursor : g.cursor.toNat = cursor) (hle : cursor ≤ ps.length) :
    SeqFinishes order ps (ps.length - cursor + 2) g ((findFirst ps cursor isHit).elim .rejected behind) := by
  have hstep := hscan g hstate
  rw [seqScan, hcursor] at hstep
  by_cases hend : cursor = ps.length
  · rw [if_pos hend] at hstep
    rw [findFirst_none hend.ge]
    exact .of_finish hstep
  · have hlt : cursor < ps.length := by omega
    have hnext : (g.cursor + 1#8).toNat = cursor + 1 := by
      rw [← hcursor]
      exact cursor_add_toNat (by omega)
    rw [if_neg hend, List.getElem?_eq_getElem hlt] at hstep
    rw [findFirst_step hlt]
    by_cases hhit : isHit ps[cursor] = true
    · simp only [if_pos hhit] at hstep ⊢
      exact (SeqFinishes.of_step hstep (hfound _ cursor hlt rfl hnext)).mono (by omega)
    · simp only [if_neg hhit] at hstep ⊢
      exact (SeqFinishes.of_step hstep (scan_finishes hps hscan hfound hstate hnext hlt)).mono (by omega)
termination_by ps.length - cursor

/-- From `D_MARK`: the header mark, then the rest. -/
theorem mark_finishes {order : BitOrder} {ps : List Pulse} (hps : ps.length ≤ 255) {g : NecRegs} {cursor : Nat}
    (hstate : g.decState = .mark) (hcursor : g.cursor.toNat = cursor) (hle : cursor ≤ ps.length) :
    SeqFinishes order ps (ps.length - cursor + 2) g
      ((findFirst ps cursor isHeaderMark).elim .rejected fun j => decodeBody order ps (j + 1)) := by
  refine scan_finishes hps (state := .mark) (found := .stop) ?_ ?_ hstate hcursor hle
  · intro g' hg'
    simp [seqStep, hg', seqMark_eq]
  · intro g' j hj hg' hc
    exact stop_finishes hps hg' hc (List.ne_nil_of_length_pos (by omega))

/-- From `D_LEADER`: the leader, then the header mark and the rest. -/
theorem leader_finishes {order : BitOrder} {ps : List Pulse} (hps : ps.length ≤ 255) {g : NecRegs} {cursor : Nat}
    (hstate : g.decState = .leader) (hcursor : g.cursor.toNat = cursor) (hle : cursor ≤ ps.length) :
    SeqFinishes order ps (ps.length - cursor + 2) g ((findFirst ps cursor isLeader).elim .rejected fun i =>
      (findFirst ps (i + 1) isHeaderMark).elim .rejected fun j => decodeBody order ps (j + 1)) := by
  refine scan_finishes hps (state := .leader) (found := .mark) ?_ ?_ hstate hcursor hle
  · intro g' hg'
    simp [seqStep, hg', seqLeader_eq]
  · intro g' i hi hg' hc
    exact mark_finishes hps hg' hc hi

/-- From `D_IDLE` the machine finishes with the result of the call. -/
theorem idle_finishes {order : BitOrder} {ps : List Pulse} (hps : ps.length ≤ 255) {g : NecRegs} (hstate : g.decState = .idle) :
    SeqFinishes order ps (ps.length + 3) g (decodeTrain order ps) := by
  cases hrepeat : isRepeatCode ps with
  | true =>
    rw [decodeTrain_of_repeat hrepeat]
    exact .of_finish (by simp [seqStep, hstate, hrepeat])
  | false =>
    have hstep : seqStep order ps g = some { g with cursor := 0#8, decState := .leader } := by simp [seqStep, hstate, hrepeat]
    rw [decodeTrain_of_not_repeat hrepeat]
    exact .of_step hstep (leader_finishes hps (cursor := 0) rfl rfl (Nat.zero_le _))

/-- Settles O58: `idle_finishes`, and the step of `D_DONE`. -/
theorem sequentialDecoderRefinesTheFunction : Obligations.SequentialDecoderRefinesTheFunction := by
  intro order ps g hps hstate
  obtain ⟨k, g', hk, hrun, hdone, hres⟩ := idle_finishes (order := order) hps hstate
  exact ⟨k, g', hk, hrun, hdone, hres, by simp [seqStep, hdone]⟩

end Sys2Proof.Nec
end
